-- ==== Sys2Proof/Word.lean ====
section
/-! DEFINITION. The bit widths of the machine (spec/00_scope.md R7, R9): every value is unsigned, bit 0 is the least
significant. Only the names of the widths stand here; field extraction and byte order are in Decode.lean and
Machine/Ops.lean. -/

namespace Sys2Proof

/-- A 4-bit value: a register index, a sprite height, a key index, a sub-opcode nibble (R12). -/
abbrev Nibble := BitVec 4

/-- An 8-bit value: a general register, a timer, a byte of memory (R20). -/
abbrev Byte := BitVec 8

/-- The 12-bit immediate nnn (R12). -/
abbrev Imm12 := BitVec 12

/-- A 16-bit value: an instruction word, pc, I, a return address (R7, R20). -/
abbrev Word := BitVec 16

end Sys2Proof
end

