-- ==== Sys2Proof/Syntax.lean ====
section
/-! DEFINITION. The instructions: one constructor per row of spec/opcode_table.json, in the table's order, with the operands
the row's fields give (30_encoding.md R82, R84 to R87). Operands have exactly the width of their field. -/

namespace Sys2Proof

/-- The 34 instructions. `x`, `y` are register indexes, `n`, `nn`, `nnn` the 4-, 8- and 12-bit immediates (00_scope.md R12). -/
inductive Instr where
  /-- `00E0`, 44_display.md R221 -/
  | clear
  /-- `00EE`, the table's Return, 41_flow.md R140 -/
  | ret
  /-- `1nnn`, 41_flow.md R141 -/
  | jump (nnn : Imm12)
  /-- `2nnn`, 41_flow.md R142 -/
  | call (nnn : Imm12)
  /-- `3xnn`, 41_flow.md R143 -/
  | skipImmEq (x : Nibble) (nn : Byte)
  /-- `4xnn`, 41_flow.md R144 -/
  | skipImmNe (x : Nibble) (nn : Byte)
  /-- `5xy0`, 41_flow.md R145 -/
  | skipRegEq (x y : Nibble)
  /-- `6xnn`, 42_alu.md R162 -/
  | regAssign (x : Nibble) (nn : Byte)
  /-- `7xnn`, 42_alu.md R163 -/
  | regIncr (x : Nibble) (nn : Byte)
  /-- `8xy0`, 42_alu.md R164 -/
  | assign (x y : Nibble)
  /-- `8xy1`, 42_alu.md R165 -/
  | or (x y : Nibble)
  /-- `8xy2`, 42_alu.md R166 -/
  | and (x y : Nibble)
  /-- `8xy3`, 42_alu.md R167 -/
  | xor (x y : Nibble)
  /-- `8xy4`, 42_alu.md R168 -/
  | incrBy (x y : Nibble)
  /-- `8xy5`, 42_alu.md R169 -/
  | decrBy (x y : Nibble)
  /-- `8xy6`, 42_alu.md R171 -/
  | rightShift (x y : Nibble)
  /-- `8xy7`, 42_alu.md R170 -/
  | invDecrBy (x y : Nibble)
  /-- `8xyE`, 42_alu.md R172 -/
  | leftShift (x y : Nibble)
  /-- `9xy0`, 41_flow.md R146 -/
  | skipRegNe (x y : Nibble)
  /-- `Annn`, 43_index_memory.md R200 -/
  | setIndex (nnn : Imm12)
  /-- `Bnnn`, 41_flow.md R147 -/
  | relJump (nnn : Imm12)
  /-- `Cxnn`, 42_alu.md R173 -/
  | random (x : Nibble) (nn : Byte)
  /-- `Dxyn`, 44_display.md R222 -/
  | draw (x y n : Nibble)
  /-- `Ex9E`, 45_keys_timers.md R241 -/
  | keyPressed (x : Nibble)
  /-- `ExA1`, 45_keys_timers.md R242 -/
  | keyNotPressed (x : Nibble)
  /-- `Fx07`, 45_keys_timers.md R244 -/
  | checkDelay (x : Nibble)
  /-- `Fx0A`, 45_keys_timers.md R243 -/
  | waitForKey (x : Nibble)
  /-- `Fx15`, 45_keys_timers.md R246 -/
  | setDelay (x : Nibble)
  /-- `Fx18`, 45_keys_timers.md R247 -/
  | setBuzzer (x : Nibble)
  /-- `Fx1E`, 43_index_memory.md R201 -/
  | incrIndex (x : Nibble)
  /-- `Fx29`, 43_index_memory.md R202 -/
  | setIndexHex (x : Nibble)
  /-- `Fx33`, 43_index_memory.md R203 -/
  | bcdReg (x : Nibble)
  /-- `Fx55`, 43_index_memory.md R204 -/
  | saveRegRange (x : Nibble)
  /-- `Fx65`, 43_index_memory.md R205 -/
  | loadRegRange (x : Nibble)
  deriving DecidableEq, Repr

end Sys2Proof
end

