-- ==== Sys2Proof/WellFormed.lean ====
section
/-! DEFINITION. Well-formedness. An operand of Instr has exactly the width of its field, so every term of Instr is
well-formed by its type and there is nothing to check on it. What can be ill-formed on this hardware is a WORD:
30_encoding.md R90 lists the words that are no instruction, family by family. The list is written here from R90 by plain
arithmetic on the word's number, apart from the decoder, so that the two can be held against each other. -/

namespace Sys2Proof

/-- The family nibble of a word as a number, bits 15 to 12 (R83). -/
def familyOf (w : Word) : Nat := w.toNat / 4096

/-- The last nibble of a word as a number, bits 3 to 0. -/
def lastNibbleOf (w : Word) : Nat := w.toNat % 16

/-- The last byte of a word as a number, bits 7 to 0. -/
def lastByteOf (w : Word) : Nat := w.toNat % 256

/-- R90, family 0: every word other than 0x00E0 and 0x00EE (D3). -/
def illegalFixed (w : Word) : Bool := familyOf w == 0 && !(w.toNat == 0x00E0 || w.toNat == 0x00EE)

/-- R90, family 5: a last nibble other than 0 (D4). -/
def illegalSkipEq (w : Word) : Bool := familyOf w == 5 && lastNibbleOf w != 0

/-- R90, family 8: the last nibble is one of the seven that name no Math instruction. -/
def illegalMath (w : Word) : Bool :=
  familyOf w == 8 && [0x8, 0x9, 0xA, 0xB, 0xC, 0xD, 0xF].contains (lastNibbleOf w)

/-- R90, family 9: a last nibble other than 0 (D4). -/
def illegalSkipNe (w : Word) : Bool := familyOf w == 9 && lastNibbleOf w != 0

/-- R90, family E: the last byte is not 0x9E or 0xA1. -/
def illegalKey (w : Word) : Bool := familyOf w == 0xE && !([0x9E, 0xA1].contains (lastByteOf w))

/-- R90, family F: the last byte names no Extra instruction. -/
def illegalExtra (w : Word) : Bool :=
  familyOf w == 0xF && !([0x07, 0x0A, 0x15, 0x18, 0x1E, 0x29, 0x33, 0x55, 0x65].contains (lastByteOf w))

/-- R90: "These words, and only these, decode to DecodeError". -/
def illegalWord (w : Word) : Bool :=
  illegalFixed w || illegalSkipEq w || illegalMath w || illegalSkipNe w || illegalKey w || illegalExtra w

/-- A word that is an instruction. -/
def wellFormedWord (w : Word) : Bool := !illegalWord w

end Sys2Proof
end

