-- ==== Sys2Proof/Decode.lean ====
section
/-! DEFINITION. The decoder (30_encoding.md R80 to R92): total on every word and on any list of bytes, failing closed by name;
and after it the encoder (R81, R84 to R87, R93). Neither reads anything but its argument (R92). -/

namespace Sys2Proof

/-- Why bytes give no instruction. `illegalWord w` is the spec's DecodeError(word) (R90, R91). `truncated` says that a byte
list ends before the two bytes of a word; a fetch never yields that. -/
inductive DecodeError where
  | illegalWord (w : Word)
  | truncated
  deriving DecidableEq, Repr

/-! ### The fields (R81) -/

/-- Bits 15 to 12: the opcode family. -/
def opField (w : Word) : Nibble := w.extractLsb' 12 4

/-- Bits 11 to 8: the first register index. -/
def xField (w : Word) : Nibble := w.extractLsb' 8 4

/-- Bits 7 to 4: the second register index. -/
def yField (w : Word) : Nibble := w.extractLsb' 4 4

/-- Bits 3 to 0: the 4-bit immediate, and the sub-opcode nibble of families 5, 8 and 9. -/
def nField (w : Word) : Nibble := w.extractLsb' 0 4

/-- Bits 7 to 0: the 8-bit immediate, and the sub-opcode byte of families E and F. -/
def nnField (w : Word) : Byte := w.extractLsb' 0 8

/-- Bits 11 to 0: the 12-bit immediate. -/
def nnnField (w : Word) : Imm12 := w.extractLsb' 0 12

/-! ### The second level of the dispatch (R83) -/

/-- Family 0: the whole word must match (R84, D3). -/
def decodeFixed (w : Word) : Except DecodeError Instr :=
  match w.toNat with
  | 0x00E0 => .ok .clear
  | 0x00EE => .ok .ret
  | _ => .error (.illegalWord w)

/-- Families 5 and 9: the sub-opcode nibble must be 0 (R84, D4). -/
def decodeSkipReg (i : Instr) (w : Word) : Except DecodeError Instr :=
  match (nField w).toNat with
  | 0 => .ok i
  | _ => .error (.illegalWord w)

/-- Family 8, Math (R85). -/
def decodeMath (w : Word) : Except DecodeError Instr :=
  match (nField w).toNat with
  | 0x0 => .ok (.assign (xField w) (yField w))
  | 0x1 => .ok (.or (xField w) (yField w))
  | 0x2 => .ok (.and (xField w) (yField w))
  | 0x3 => .ok (.xor (xField w) (yField w))
  | 0x4 => .ok (.incrBy (xField w) (yField w))
  | 0x5 => .ok (.decrBy (xField w) (yField w))
  | 0x6 => .ok (.rightShift (xField w) (yField w))
  | 0x7 => .ok (.invDecrBy (xField w) (yField w))
  | 0xE => .ok (.leftShift (xField w) (yField w))
  | _ => .error (.illegalWord w)

/-- Family E, Key (R86). -/
def decodeKey (w : Word) : Except DecodeError Instr :=
  match (nnField w).toNat with
  | 0x9E => .ok (.keyPressed (xField w))
  | 0xA1 => .ok (.keyNotPressed (xField w))
  | _ => .error (.illegalWord w)

/-- Family F, Extra (R87). -/
def decodeExtra (w : Word) : Except DecodeError Instr :=
  match (nnField w).toNat with
  | 0x07 => .ok (.checkDelay (xField w))
  | 0x0A => .ok (.waitForKey (xField w))
  | 0x15 => .ok (.setDelay (xField w))
  | 0x18 => .ok (.setBuzzer (xField w))
  | 0x1E => .ok (.incrIndex (xField w))
  | 0x29 => .ok (.setIndexHex (xField w))
  | 0x33 => .ok (.bcdReg (xField w))
  | 0x55 => .ok (.saveRegRange (xField w))
  | 0x65 => .ok (.loadRegRange (xField w))
  | _ => .error (.illegalWord w)

/-- `decode` (R83, R84, R90): bits 15 to 12 select one of 16 families. The last arm is for a family number above 15, which a
4-bit field does not hold. -/
def decode (w : Word) : Except DecodeError Instr :=
  match (opField w).toNat with
  | 0x0 => decodeFixed w
  | 0x1 => .ok (.jump (nnnField w))
  | 0x2 => .ok (.call (nnnField w))
  | 0x3 => .ok (.skipImmEq (xField w) (nnField w))
  | 0x4 => .ok (.skipImmNe (xField w) (nnField w))
  | 0x5 => decodeSkipReg (.skipRegEq (xField w) (yField w)) w
  | 0x6 => .ok (.regAssign (xField w) (nnField w))
  | 0x7 => .ok (.regIncr (xField w) (nnField w))
  | 0x8 => decodeMath w
  | 0x9 => decodeSkipReg (.skipRegNe (xField w) (yField w)) w
  | 0xA => .ok (.setIndex (nnnField w))
  | 0xB => .ok (.relJump (nnnField w))
  | 0xC => .ok (.random (xField w) (nnField w))
  | 0xD => .ok (.draw (xField w) (yField w) (nField w))
  | 0xE => decodeKey w
  | 0xF => decodeExtra w
  | _ => .error (.illegalWord w)

/-- The byte order of an instruction word: big-endian, the first byte is bits 15 to 8 (20_memory.md R52). -/
def wordOfBytes (first second : Byte) : Word := first ++ second

/-- Decode the first instruction of a byte list and give the rest of the list back. -/
def decodeBytes (bytes : List Byte) : Except DecodeError (Instr × List Byte) :=
  match bytes with
  | first :: second :: rest =>
    match decode (wordOfBytes first second) with
    | .ok i => .ok (i, rest)
    | .error e => .error e
  | _ => .error .truncated

/-! ### The encoder (R81, R84 to R87) -/

/-- Formats XYS and XYN (R82): family, x, y and a last nibble. -/
def wordXYN (op x y n : Nibble) : Word := op ++ x ++ y ++ n

/-- Formats XNN and XS (R82): family, x and a last byte. -/
def wordXNN (op x : Nibble) (nn : Byte) : Word := op ++ x ++ nn

/-- Format NNN (R82): family and a 12-bit immediate. -/
def wordNNN (op : Nibble) (nnn : Imm12) : Word := op ++ nnn

/-- The word of an instruction (R84 to R87). -/
def encode (i : Instr) : Word :=
  match i with
  | .clear => 0x00E0
  | .ret => 0x00EE
  | .jump nnn => wordNNN 0x1 nnn
  | .call nnn => wordNNN 0x2 nnn
  | .skipImmEq x nn => wordXNN 0x3 x nn
  | .skipImmNe x nn => wordXNN 0x4 x nn
  | .skipRegEq x y => wordXYN 0x5 x y 0x0
  | .regAssign x nn => wordXNN 0x6 x nn
  | .regIncr x nn => wordXNN 0x7 x nn
  | .assign x y => wordXYN 0x8 x y 0x0
  | .or x y => wordXYN 0x8 x y 0x1
  | .and x y => wordXYN 0x8 x y 0x2
  | .xor x y => wordXYN 0x8 x y 0x3
  | .incrBy x y => wordXYN 0x8 x y 0x4
  | .decrBy x y => wordXYN 0x8 x y 0x5
  | .rightShift x y => wordXYN 0x8 x y 0x6
  | .invDecrBy x y => wordXYN 0x8 x y 0x7
  | .leftShift x y => wordXYN 0x8 x y 0xE
  | .skipRegNe x y => wordXYN 0x9 x y 0x0
  | .setIndex nnn => wordNNN 0xA nnn
  | .relJump nnn => wordNNN 0xB nnn
  | .random x nn => wordXNN 0xC x nn
  | .draw x y n => wordXYN 0xD x y n
  | .keyPressed x => wordXNN 0xE x 0x9E
  | .keyNotPressed x => wordXNN 0xE x 0xA1
  | .checkDelay x => wordXNN 0xF x 0x07
  | .waitForKey x => wordXNN 0xF x 0x0A
  | .setDelay x => wordXNN 0xF x 0x15
  | .setBuzzer x => wordXNN 0xF x 0x18
  | .incrIndex x => wordXNN 0xF x 0x1E
  | .setIndexHex x => wordXNN 0xF x 0x29
  | .bcdReg x => wordXNN 0xF x 0x33
  | .saveRegRange x => wordXNN 0xF x 0x55
  | .loadRegRange x => wordXNN 0xF x 0x65

/-- The bytes of a word in the order memory holds them (20_memory.md R52). -/
def bytesOfWord (w : Word) : List Byte := [w.extractLsb' 8 8, w.extractLsb' 0 8]

/-- The word of which the opcode table gives the low `nbits` bits, the others 0. Every row of this table is one whole 16-bit
word, so its bit numbering is the word's own. -/
def tableWord (nbits w : Nat) : Word := BitVec.ofNat 16 (w % 2 ^ nbits)

/-- What the decoder reads from an instruction whose bits, numbered as the opcode table numbers them, are `w`. -/
def decodeTableWord (nbits w : Nat) : Option Instr :=
  match decodeBytes (bytesOfWord (tableWord nbits w)) with
  | .ok (i, _) => some i
  | .error _ => none

end Sys2Proof
end

