-- ==== Sys2Proof/Config.lean ====
section
/-! DEFINITION. What is fixed for one machine: the types of the implementation parameters of spec/00_scope.md R8, the screen
size that shapes the state, and the two open points of the spec as opaque constants. The values the spec decides for the
other parameters stand in Machine/Params.lean. -/

namespace Sys2Proof.Config

/-- The compatibility mode (10_state.md R29). -/
inductive Compat where
  | legacy
  | modern
  deriving DecidableEq, Repr, Inhabited

/-- P_SHL_FLAG (R8): the flag LeftShift writes. -/
inductive ShlFlag where
  | documented
  | referenceDefect
  deriving DecidableEq, Repr

/-- P_VF_WRITE_ORDER (R8, 42_alu.md R161): which write is last when VF is also the destination. -/
inductive VfWriteOrder where
  | sourceOrder
  | flagLast
  deriving DecidableEq, Repr

/-- P_SCREEN_W (R8, D23), columns. -/
abbrev screenW : Nat := 64

/-- P_SCREEN_H (R8, D23), rows. -/
abbrev screenH : Nat := 32

/-- P_COMPAT (R8, 92_eei_decisions.md D22): OPEN, chosen at construction. It has no body, so no proof can see which mode a
machine was built with. notes/assumptions/1.md. -/
opaque pCompat : Compat

/-- The RANDOM oracle (R8, 42_alu.md R173, D21): the `k`-th 8-bit draw of the run, with no law. It has no body, so a
statement about a draw holds for every value. notes/assumptions/3.md. -/
opaque randomDraw (k : Nat) : Byte

end Sys2Proof.Config
end

