-- ==== Sys2Proof/Machine/Params.lean ====
section
/-! DEFINITION. The constants of spec/00_scope.md R7 and the values the spec decides for the parameters of R8. They stand
here, not in Config.lean, so that each is one definition whose body can be mended. -/

namespace Sys2Proof.Machine

open Sys2Proof.Config

/-- MEM_SIZE (R7, 20_memory.md R50): addresses 0 to 4095. -/
abbrev memSize : Nat := 4096

/-- LOAD_OFFSET (R7): the program's first address and the reset value of pc. -/
abbrev loadOffset : Nat := 0x200

/-- MAX_PROGRAM (R7): 4096 - 0x200. -/
abbrev maxProgram : Nat := 3584

/-- GLYPH_STRIDE (R7): bytes per glyph. -/
abbrev glyphStride : Nat := 5

/-- P_STACK_CAPACITY (R8, D11). notes/assumptions/7.md. -/
abbrev stackCapacity : Nat := 16

/-- P_SHL_FLAG (R8, D8, 90_conflicts.md C4). notes/assumptions/4.md. -/
def pShlFlag : ShlFlag := .documented

/-- P_DRAW_COLLISION (R8, D9, 90_conflicts.md C3). notes/assumptions/5.md. -/
def pDrawCollision : Bool := true

/-- P_VF_WRITE_ORDER (R8, D6, 42_alu.md R161). notes/assumptions/6.md. -/
def pVfWriteOrder : VfWriteOrder := .sourceOrder

/-- P_FONT (R8, 10_state.md R33, D16): 16 glyphs of 5 bytes, the glyph of digit d at 5·d. notes/assumptions/12.md. -/
def pFont : List Byte :=
  [0xF0, 0x90, 0x90, 0x90, 0xF0] ++ [0x20, 0x60, 0x20, 0x20, 0x70] ++
  [0xF0, 0x10, 0xF0, 0x80, 0xF0] ++ [0xF0, 0x10, 0xF0, 0x10, 0xF0] ++
  [0x90, 0x90, 0xF0, 0x10, 0x10] ++ [0xF0, 0x80, 0xF0, 0x10, 0xF0] ++
  [0xF0, 0x80, 0xF0, 0x90, 0xF0] ++ [0xF0, 0x10, 0x20, 0x40, 0x40] ++
  [0xF0, 0x90, 0xF0, 0x90, 0xF0] ++ [0xF0, 0x90, 0xF0, 0x10, 0xF0] ++
  [0xF0, 0x90, 0xF0, 0x90, 0x90] ++ [0xE0, 0x90, 0xE0, 0x90, 0xE0] ++
  [0xF0, 0x80, 0x80, 0x80, 0xF0] ++ [0xE0, 0x90, 0x90, 0x90, 0xE0] ++
  [0xF0, 0x80, 0xF0, 0x80, 0xF0] ++ [0xF0, 0x80, 0xF0, 0x80, 0x80]

/-- What a byte of memory holds after construction, before a program is loaded (R38, R59): the font at 0 to 79, zero
everywhere else. An address the memory list does not name reads as this. -/
def resetByte (a : Nat) : Byte := pFont[a]?.getD 0

end Sys2Proof.Machine
end

