-- ==== Sys2Proof/Machine/State.lean ====
section
/-! DEFINITION. The state of the core (10_state.md R20), the four faults (60_exceptions.md R260), the reasons a call of the
core is refused, and the state after construction (10_state.md R38, 70_reset_and_hazards.md R290). -/

namespace Sys2Proof.Machine

open Sys2Proof.Config

/-- The four faults of 60_exceptions.md R260, each with the info it records. A step that raises one answers a NEXT state
whose `status` is `faulted f` and which is otherwise the state before the step (40_cycle.md R126, `takeFault` in
Machine/Ops.lean); no step answers `Outcome.fault`. Safe: these stops are the spec's own. notes/assumptions/2.md. -/
inductive Fault where
  /-- Code 1, raised by any step whose fetched word is illegal (30_encoding.md R90, R91). Safe: the spec's own fault. -/
  | decodeError (word : Word)
  /-- Code 2, raised by Return on an empty stack (41_flow.md R140). Safe: the spec's own fault. -/
  | stackUnderflow
  /-- Code 3, raised by Call on a full stack (41_flow.md R142, D11). Safe: the spec's own fault. -/
  | stackOverflow
  /-- Code 4, raised by a fetch, Draw, BcdReg, SaveRegRange and LoadRegRange; records the first address of 4096 or above
  (20_memory.md R55, 43_index_memory.md R206). Safe: the spec's own fault. -/
  | memoryBounds (addr : Nat)
  deriving DecidableEq, Repr

/-- Why a call of the core has no transition. No instruction's meaning answers one of these. -/
inductive Refusal where
  /-- The form the host fixes for an instruction without a meaning. Raised by nothing: every instruction has its meaning. Safe. -/
  | notModelled (mnemonic : String)
  /-- Raised by `step` in `Faulted f`: "The core takes no step while status is Faulted" (10_state.md R30, 40_cycle.md R120,
  93_implementation_defined.md U27). Safe: the spec refuses it too. -/
  | stepWhileFaulted (f : Fault)
  /-- Raised by the host operation `setKey` on an index outside 0 to 15 (60_exceptions.md R272, U25). Safe: the spec refuses it too. -/
  | keyIndexOutOfRange (index : Nat)
  /-- Raised by the host session on a `load_program` after a program is loaded or a step was taken
  (70_reset_and_hazards.md R293, U26). Safe: the spec refuses it too. -/
  | loadOutOfOrder
  deriving DecidableEq, Repr

/-- The two states of the execution FSM (10_state.md R30, 40_cycle.md R120). -/
inductive Status where
  | running
  | faulted (f : Fault)
  deriving DecidableEq, Repr

/-- The 2-D grid of pixels, `fb[x][y]` is column x and row y (00_scope.md R10, 10_state.md R36). -/
abbrev Framebuffer := Vector (Vector Bool screenH) screenW

/-- Memory: (address, byte) pairs, addresses strictly rising, below 4096, no pair equal to what an unlisted address reads as
(`Memory.wf` in Machine/Ops.lean). -/
abbrev Memory := List Host.Cell

/-- The state record of 10_state.md R20, and the model's own counter `draws`. -/
structure State where
  /-- V0 to VF (R22); VF is also the flag register (R23). -/
  v : Vector Byte 16
  /-- The index register I (R31). -/
  i : Word
  /-- The program counter (R25): before a step, the address of the instruction about to be fetched. -/
  pc : Word
  /-- The call stack, most recently pushed first (R32). -/
  stack : List Word
  /-- The 4096 bytes of memory (20_memory.md R50). -/
  mem : Memory
  /-- The delay timer DT (R34). -/
  dt : Byte
  /-- The sound timer ST (R34). -/
  st : Byte
  /-- The keypad, true is pressed (R35). -/
  key : Vector Bool 16
  /-- The framebuffer (R36). -/
  fb : Framebuffer
  /-- The compatibility mode, fixed at construction (R29). -/
  compat : Compat
  /-- The state of the execution FSM (R30). -/
  status : Status
  /-- The MODEL's own field, no state of the spec: how many RANDOM draws the run has taken. notes/assumptions/3.md. -/
  draws : Nat
  deriving DecidableEq, Repr

/-- The state after construction and before any program is loaded (10_state.md R38, 70_reset_and_hazards.md R290). An
unlisted address reads as the font or zero, so memory lists nothing. `compat` is P_COMPAT, which the spec leaves open
(notes/assumptions/1.md); I and fb are 0 by the spec's decision D15 (notes/assumptions/11.md); `draws` is the model's
(notes/assumptions/3.md). -/
def State.reset : State where
  v := Vector.replicate 16 0
  i := 0
  pc := BitVec.ofNat 16 loadOffset
  stack := []
  mem := []
  dt := 0
  st := 0
  key := Vector.replicate 16 false
  fb := Vector.replicate screenW (Vector.replicate screenH false)
  compat := pCompat
  status := .running
  draws := 0

end Sys2Proof.Machine
end

