-- ==== Sys2Proof/Machine/Ops.lean ====
section
/-! DEFINITION. The named operations over registers, memory, the stack and the framebuffer: every read and write of a meaning
goes through these. Fetch (40_cycle.md R121) and taking a fault (R126) stand here as shared operations. There is no return
from a fault: `Faulted` is final (60_exceptions.md R266). -/

namespace Sys2Proof.Machine

open Sys2Proof.Config

/-! ### Memory (20_memory.md) -/

/-- The byte at an address: the listed one, or the construction value when nothing has written it (R61). -/
def Memory.read : Memory → Nat → Byte
  | [], a => resetByte a
  | c :: rest, a => if c.1 = a then c.2 else Memory.read rest a

/-- Put a pair at its place in a list of rising addresses, replacing a pair of the same address. -/
def Memory.insert (a : Nat) (b : Byte) : Memory → Memory
  | [] => [(a, b)]
  | c :: rest => if a < c.1 then (a, b) :: c :: rest else if a = c.1 then (a, b) :: rest else c :: Memory.insert a b rest

/-- Store a byte. The value an unlisted address reads as removes the pair, so that equal memories are equal lists. -/
def Memory.write (m : Memory) (a : Nat) (b : Byte) : Memory :=
  if b = resetByte a then m.filter (fun c => c.1 != a) else Memory.insert a b m

/-- Store bytes at ascending addresses from `a` (R56). -/
def Memory.writeBytes (m : Memory) (a : Nat) : List Byte → Memory
  | [] => m
  | b :: rest => Memory.writeBytes (m.write a b) (a + 1) rest

/-- The canonical form: addresses strictly rising and below 4096, no pair equal to what an unlisted address reads as. -/
abbrev Memory.wf (m : Memory) : Prop :=
  m.Pairwise (fun c d => c.1 < d.1) ∧ ∀ c ∈ m, c.1 < memSize ∧ c.2 ≠ resetByte c.1

/-! ### Framebuffer (44_display.md R220, 10_state.md R36) -/

/-- Pixel (x, y): column x, row y. Outside the grid there is no pixel, and this answers off. -/
def Framebuffer.pixel (fb : Framebuffer) (x y : Nat) : Bool :=
  if h : x < screenW ∧ y < screenH then (fb[x]'h.1)[y]'h.2 else false

/-- Set pixel (x, y); outside the grid nothing changes. -/
def Framebuffer.setPixel (fb : Framebuffer) (x y : Nat) (b : Bool) : Framebuffer :=
  if h : x < screenW ∧ y < screenH then fb.set x ((fb[x]'h.1).set y b h.2) h.1 else fb

/-- Every pixel off (R221). -/
def Framebuffer.blank : Framebuffer := Vector.replicate screenW (Vector.replicate screenH false)

/-! ### Reading the state -/

/-- `V[x]` (00_scope.md R10). -/
def State.reg (s : State) (x : Nibble) : Byte := s.v[x.toNat]'x.isLt

/-- The byte of memory at address `a`. -/
def State.byte (s : State) (a : Nat) : Byte := s.mem.read a

/-- `key[k]`, true is pressed (10_state.md R35). -/
def State.keyDown (s : State) (k : Nibble) : Bool := s.key[k.toNat]'k.isLt

/-- `fb[x][y]` (10_state.md R36). -/
def State.pixel (s : State) (x y : Nat) : Bool := s.fb.pixel x y

/-! ### Writing the state -/

/-- `V[x] <- b`. -/
def State.setReg (s : State) (x : Nibble) (b : Byte) : State := { s with v := s.v.set x.toNat b x.isLt }

/-- `I <- w`. -/
def State.setIndex (s : State) (w : Word) : State := { s with i := w }

/-- `pc <- w`. -/
def State.setPc (s : State) (w : Word) : State := { s with pc := w }

/-- The call stack becomes `l`. -/
def State.setStack (s : State) (l : List Word) : State := { s with stack := l }

/-- Memory becomes `m`. -/
def State.setMem (s : State) (m : Memory) : State := { s with mem := m }

/-- `DT <- b`. -/
def State.setDelay (s : State) (b : Byte) : State := { s with dt := b }

/-- `ST <- b`. -/
def State.setSound (s : State) (b : Byte) : State := { s with st := b }

/-- `key[k] <- pressed`. -/
def State.setKeyDown (s : State) (k : Nibble) (pressed : Bool) : State :=
  { s with key := s.key.set k.toNat pressed k.isLt }

/-- The framebuffer becomes `fb`. -/
def State.setFb (s : State) (fb : Framebuffer) : State := { s with fb := fb }

/-- The FSM goes to `st`. -/
def State.setStatus (s : State) (st : Status) : State := { s with status := st }

/-- The oracle is at its next draw. -/
def State.countDraw (s : State) : State := { s with draws := s.draws + 1 }

/-- The pre-increment `pc <- a + 2` (40_cycle.md R123). -/
def State.advance (s : State) : State := s.setPc (s.pc + 2)

/-- Load `V[k] <- mem[base + k]` for k = 0 .. count-1, ascending (43_index_memory.md R205). -/
def State.loadRegs (s : State) (base count : Nat) : State :=
  (List.range count).foldl (fun t k => t.setReg (BitVec.ofNat 4 k) (s.byte (base + k))) s

/-- The values of V[0] to V[count-1], in order. -/
def State.firstRegs (s : State) (count : Nat) : List Byte :=
  (List.range count).map fun k => s.reg (BitVec.ofNat 4 k)

/-! ### Faults (40_cycle.md R126, 60_exceptions.md R260 to R266) -/

/-- The fault's numeric code (R260). -/
def Fault.code : Fault → Nat
  | .decodeError _ => 1
  | .stackUnderflow => 2
  | .stackOverflow => 3
  | .memoryBounds _ => 4

/-- The state after a step that raised `f`: every field as before the step, except that `status` is `Faulted(f)`
(40_cycle.md R126, R127 `fault(s, f)`). -/
def State.withFault (s : State) (f : Fault) : State := s.setStatus (.faulted f)

/-- Taking a fault: the ONE operation through which a step or a meaning raises `f`. `s` is the state BEFORE the step, its pc
not yet advanced, so nothing of the step is committed (R126). -/
def takeFault (f : Fault) (s : State) : Host.Outcome State Fault Refusal := .next (s.withFault f)

/-! ### Fetch (40_cycle.md R121) -/

/-- The word at pc, or the bounds fault of the fetch, byte a before byte a + 1 (R121, R130). -/
def State.fetch (s : State) : Except Fault Word :=
  let a := s.pc.toNat
  if memSize ≤ a then .error (.memoryBounds a)
  else if memSize ≤ a + 1 then .error (.memoryBounds (a + 1))
  else .ok (wordOfBytes (s.byte a) (s.byte (a + 1)))

end Sys2Proof.Machine
end

