-- ==== Sys2Proof/Machine/Flags.lean ====
section
/-! DEFINITION. The flag VF (10_state.md R23, R28): every value it takes, and the order of its write against the write of the
result (42_alu.md R161). -/

namespace Sys2Proof.Machine

open Sys2Proof.Config

/-- VF is V[15] (10_state.md R23). -/
abbrev vf : Nibble := 0xF

/-- A flag as the byte VF takes: 1 or 0. -/
def flagByte (b : Bool) : Byte := if b then 1 else 0

/-- The carry of IncrBy: the wrapped sum is less than b (42_alu.md R168). -/
def carryFlag (a b : Byte) : Byte := flagByte (decide ((a + b).toNat < b.toNat))

/-- "No borrow" of a subtraction m − k: strictly m > k (R169, R170; 93_implementation_defined.md U12). -/
def noBorrowFlag (m k : Byte) : Byte := flagByte (decide (k.toNat < m.toNat))

/-- The bit RightShift shifts out: bit 0 of the source (R171). -/
def rightShiftFlag (src : Byte) : Byte := flagByte (src.getLsbD 0)

/-- The bit LeftShift shifts out: bit 7 of the source, or 0 under ReferenceDefect (R172, D8). -/
def leftShiftFlag (src : Byte) : Byte :=
  match pShlFlag with
  | .documented => flagByte (src.getLsbD 7)
  | .referenceDefect => 0

/-- The wrap of I past 0xFFFF, and 0 when there is none (43_index_memory.md R201, D7). -/
def indexWrapFlag (i : Word) (b : Byte) : Byte := flagByte (decide (65536 ≤ i.toNat + b.toNat))

/-- IncrBy's two writes: the result first and the flag second, under either write order (R161, R168). -/
def State.writeResultThenFlag (s : State) (x : Nibble) (result flag : Byte) : State :=
  (s.setReg x result).setReg vf flag

/-- The two writes of DecrBy, InvDecrBy and the shifts: under SourceOrder the flag first and the result second, under FlagLast
the other way round (R161, D6). -/
def State.writeFlagThenResult (s : State) (x : Nibble) (result flag : Byte) : State :=
  match pVfWriteOrder with
  | .sourceOrder => (s.setReg vf flag).setReg x result
  | .flagLast => s.writeResultThenFlag x result flag

/-- Draw's flag, written after the blit, only under P_DRAW_COLLISION (44_display.md R225, D9). -/
def State.writeCollision (s : State) (erased : Bool) : State :=
  if pDrawCollision then s.setReg vf (flagByte erased) else s

end Sys2Proof.Machine
end

