-- ==== Sys2Proof/Machine/Operands.lean ====
section
/-! DEFINITION. The operand forms (30_encoding.md R88, R89; 43_index_memory.md R206; 44_display.md R220, R223): how a field or
a register becomes the value an instruction uses. -/

namespace Sys2Proof.Machine

open Sys2Proof.Config

/-- `nnn` where it meets pc or I: zero-extended to 16 bits (R88). -/
def immAddr (nnn : Imm12) : Word := nnn.setWidth 16

/-- The key index of a key instruction: the low nibble of its register (45_keys_timers.md R240). -/
def keyIndex (s : State) (x : Nibble) : Nibble := (s.reg x).extractLsb' 0 4

/-- The register of RelJump: V0 under Legacy, V[nnn[11:8]] under Modern (R89, 41_flow.md R147). -/
def relJumpReg (c : Compat) (nnn : Imm12) : Nibble :=
  match c with
  | .legacy => 0
  | .modern => nnn.extractLsb' 8 4

/-- The source of a shift: V[y] under Legacy, V[x] under Modern (42_alu.md R171, R172). -/
def shiftSource (s : State) (x y : Nibble) : Byte :=
  match s.compat with
  | .legacy => s.reg y
  | .modern => s.reg x

/-- The address of a data access at offset `k` from I: an unbounded natural, with no wrap (R206, D13). -/
def effAddr (s : State) (k : Nat) : Nat := s.i.toNat + k

/-- The bounds check of an access to `count` bytes from `base`, made before anything is written: the first address of 4096 or
above in ascending order is max(base, 4096). An access to no byte checks nothing (R206, 44_display.md R222). -/
def rangeFault (base count : Nat) : Option Fault :=
  if 0 < count ∧ memSize ≤ base + count - 1 then some (.memoryBounds (max base memSize)) else none

/-- Take the bounds fault of an access, or go on. `s` is the state before the step. -/
def guardRange (base count : Nat) (s : State) (go : Host.Outcome State Fault Refusal) :
    Host.Outcome State Fault Refusal :=
  match rangeFault base count with
  | some f => takeFault f s
  | none => go

/-- The hundreds, tens and ones digits of a byte (43_index_memory.md R203). -/
def bcdDigits (b : Byte) : List Byte :=
  [BitVec.ofNat 8 (b.toNat / 100), BitVec.ofNat 8 (b.toNat / 10 % 10), BitVec.ofNat 8 (b.toNat % 10)]

/-- The origin column of a sprite: V[x] mod W, once (R223). -/
def originX (s : State) (x : Nibble) : Nat := (s.reg x).toNat % screenW

/-- The origin row of a sprite: V[y] mod H, once (R223). -/
def originY (s : State) (y : Nibble) : Nat := (s.reg y).toNat % screenH

/-- The bit of a sprite row at column offset `c`, most significant first (R220). -/
def spriteBit (row : Byte) (c : Nat) : Bool := row.getLsbD (7 - c)

/-- The `n` sprite rows at I (R220, R224). -/
def spriteRows (s : State) (n : Nat) : List Byte := (List.range n).map fun r => s.byte (effAddr s r)

/-- `draw8()`: the next value of the RANDOM oracle (00_scope.md R10). notes/assumptions/3.md. -/
def drawByte (s : State) : Byte := randomDraw s.draws

end Sys2Proof.Machine
end

