-- ==== Sys2Proof/Machine/Alu.lean ====
section
/-! DEFINITION. The ALU and the register file (42_alu.md R160 to R173): 8-bit unsigned arithmetic that wraps. Operands are
read from `s`, the state before the step, so they are the snapshot of 00_scope.md R11; writes go to `s.advance`. -/

namespace Sys2Proof.Machine

/-- RegAssign Vx, nn (R162). -/
def execRegAssign (x : Nibble) (nn : Byte) (s : State) : Host.Outcome State Fault Refusal := .next (s.advance.setReg x nn)

/-- RegIncr Vx, nn (R163): no flag. -/
def execRegIncr (x : Nibble) (nn : Byte) (s : State) : Host.Outcome State Fault Refusal :=
  .next (s.advance.setReg x (s.reg x + nn))

/-- Assign Vx, Vy (R164). -/
def execAssign (x y : Nibble) (s : State) : Host.Outcome State Fault Refusal := .next (s.advance.setReg x (s.reg y))

/-- Or Vx, Vy (R165): VF is not cleared. -/
def execOr (x y : Nibble) (s : State) : Host.Outcome State Fault Refusal :=
  .next (s.advance.setReg x (s.reg x ||| s.reg y))

/-- And Vx, Vy (R166): VF is not cleared. -/
def execAnd (x y : Nibble) (s : State) : Host.Outcome State Fault Refusal :=
  .next (s.advance.setReg x (s.reg x &&& s.reg y))

/-- Xor Vx, Vy (R167): VF is not cleared. -/
def execXor (x y : Nibble) (s : State) : Host.Outcome State Fault Refusal :=
  .next (s.advance.setReg x (s.reg x ^^^ s.reg y))

/-- IncrBy Vx, Vy (R168). -/
def execIncrBy (x y : Nibble) (s : State) : Host.Outcome State Fault Refusal :=
  .next (s.advance.writeResultThenFlag x (s.reg x + s.reg y) (carryFlag (s.reg x) (s.reg y)))

/-- DecrBy Vx, Vy (R169): a − b. -/
def execDecrBy (x y : Nibble) (s : State) : Host.Outcome State Fault Refusal :=
  .next (s.advance.writeFlagThenResult x (s.reg x - s.reg y) (noBorrowFlag (s.reg x) (s.reg y)))

/-- InvDecrBy Vx, Vy (R170): b − a. -/
def execInvDecrBy (x y : Nibble) (s : State) : Host.Outcome State Fault Refusal :=
  .next (s.advance.writeFlagThenResult x (s.reg y - s.reg x) (noBorrowFlag (s.reg y) (s.reg x)))

/-- RightShift Vx, Vy (R171): logical, by one bit. -/
def execRightShift (x y : Nibble) (s : State) : Host.Outcome State Fault Refusal :=
  .next (s.advance.writeFlagThenResult x (shiftSource s x y >>> 1) (rightShiftFlag (shiftSource s x y)))

/-- LeftShift Vx, Vy (R172): by one bit. -/
def execLeftShift (x y : Nibble) (s : State) : Host.Outcome State Fault Refusal :=
  .next (s.advance.writeFlagThenResult x (shiftSource s x y <<< 1) (leftShiftFlag (shiftSource s x y)))

/-- Random Vx, nn (R173): one fresh draw of the oracle, masked. -/
def execRandom (x : Nibble) (nn : Byte) (s : State) : Host.Outcome State Fault Refusal :=
  .next (s.advance.countDraw.setReg x (drawByte s &&& nn))

end Sys2Proof.Machine
end

