-- ==== Sys2Proof/Machine/Display.lean ====
section
/-! DEFINITION. The framebuffer XOR-blit engine (44_display.md R220 to R226). The blit carries the grid and whether a pixel
has gone from 1 to 0 so far. -/

namespace Sys2Proof.Machine

open Sys2Proof.Config

/-- One pixel of a sprite at (px, py): dropped outside the grid, XORed inside it (R222, R223). -/
def blitPixel (px py : Nat) (bit : Bool) (acc : Framebuffer × Bool) : Framebuffer × Bool :=
  if px < screenW ∧ py < screenH ∧ bit = true then
    (acc.1.setPixel px py (!acc.1.pixel px py), acc.2 || acc.1.pixel px py)
  else acc

/-- One sprite row at row `py` from column `x0`: 8 pixels (R220, R222). -/
def blitRow (x0 py : Nat) (row : Byte) (acc : Framebuffer × Bool) : Framebuffer × Bool :=
  (List.range 8).foldl (fun acc c => blitPixel (x0 + c) py (spriteBit row c) acc) acc

/-- The sprite rows one below the other from row `y0` (R222). -/
def blitRows (x0 y0 : Nat) : List Byte → Framebuffer × Bool → Framebuffer × Bool
  | [], acc => acc
  | row :: rest, acc => blitRows x0 (y0 + 1) rest (blitRow x0 y0 row acc)

/-- Clear (R221). -/
def execClear (s : State) : Host.Outcome State Fault Refusal := .next (s.advance.setFb Framebuffer.blank)

/-- Draw Vx, Vy, n (R222): all rows are read, clipped ones too (R224). -/
def execDraw (x y n : Nibble) (s : State) : Host.Outcome State Fault Refusal :=
  let drawn := blitRows (originX s x) (originY s y) (spriteRows s n.toNat) (s.fb, false)
  guardRange (effAddr s 0) n.toNat s (.next ((s.advance.setFb drawn.1).writeCollision drawn.2))

end Sys2Proof.Machine
end

