-- ==== Sys2Proof/Machine/Flow.lean ====
section
/-! DEFINITION. Control transfer (41_flow.md R140 to R149). `s` is the state before the step, with pc at the instruction;
`s.advance` is the state the rule starts from (40_cycle.md R123, R124). -/

namespace Sys2Proof.Machine

/-- A skip: pc is a + 2, and 2 more when it is taken (41_flow.md R149). -/
def skipIf (taken : Bool) (s : State) : Host.Outcome State Fault Refusal :=
  .next (if taken then s.advance.setPc (s.advance.pc + 2) else s.advance)

/-- Return (R140). -/
def execRet (s : State) : Host.Outcome State Fault Refusal :=
  match s.stack with
  | [] => takeFault .stackUnderflow s
  | top :: rest => .next ((s.advance.setStack rest).setPc top)

/-- Jump nnn (R141). -/
def execJump (nnn : Imm12) (s : State) : Host.Outcome State Fault Refusal := .next (s.advance.setPc (immAddr nnn))

/-- Call nnn (R142): pushes the advanced pc. -/
def execCall (nnn : Imm12) (s : State) : Host.Outcome State Fault Refusal :=
  if stackCapacity ≤ s.stack.length then takeFault .stackOverflow s
  else .next ((s.advance.setStack (s.advance.pc :: s.stack)).setPc (immAddr nnn))

/-- SkipImmEq Vx, nn (R143). -/
def execSkipImmEq (x : Nibble) (nn : Byte) (s : State) : Host.Outcome State Fault Refusal := skipIf (s.reg x == nn) s

/-- SkipImmNe Vx, nn (R144). -/
def execSkipImmNe (x : Nibble) (nn : Byte) (s : State) : Host.Outcome State Fault Refusal := skipIf (s.reg x != nn) s

/-- SkipRegEq Vx, Vy (R145). -/
def execSkipRegEq (x y : Nibble) (s : State) : Host.Outcome State Fault Refusal := skipIf (s.reg x == s.reg y) s

/-- SkipRegNe Vx, Vy (R146). -/
def execSkipRegNe (x y : Nibble) (s : State) : Host.Outcome State Fault Refusal := skipIf (s.reg x != s.reg y) s

/-- RelJump nnn (R147): at most 0x10FE, with no mask to 12 bits (D14). -/
def execRelJump (nnn : Imm12) (s : State) : Host.Outcome State Fault Refusal :=
  .next (s.advance.setPc (immAddr nnn + (s.reg (relJumpReg s.compat nnn)).setWidth 16))

end Sys2Proof.Machine
end

