-- ==== Sys2Proof/Machine/IndexMemory.lean ====
section
/-! DEFINITION. The index register and memory transfers (43_index_memory.md R200 to R206). A transfer checks all its
addresses before it writes anything, and leaves I alone (R206). -/

namespace Sys2Proof.Machine

/-- SetIndex nnn (R200). -/
def execSetIndex (nnn : Imm12) (s : State) : Host.Outcome State Fault Refusal := .next (s.advance.setIndex (immAddr nnn))

/-- IncrIndex Vx (R201): I first, then VF. -/
def execIncrIndex (x : Nibble) (s : State) : Host.Outcome State Fault Refusal :=
  .next ((s.advance.setIndex (s.i + (s.reg x).setWidth 16)).setReg vf (indexWrapFlag s.i (s.reg x)))

/-- SetIndexHex Vx (R202): the whole byte times 5. -/
def execSetIndexHex (x : Nibble) (s : State) : Host.Outcome State Fault Refusal :=
  .next (s.advance.setIndex (BitVec.ofNat 16 ((s.reg x).toNat * glyphStride)))

/-- BcdReg Vx (R203): hundreds, tens, ones at I, I+1, I+2. -/
def execBcdReg (x : Nibble) (s : State) : Host.Outcome State Fault Refusal :=
  guardRange (effAddr s 0) 3 s (.next (s.advance.setMem (s.mem.writeBytes (effAddr s 0) (bcdDigits (s.reg x)))))

/-- SaveRegRange Vx (R204): V[0] to V[x] at I to I+x. -/
def execSaveRegRange (x : Nibble) (s : State) : Host.Outcome State Fault Refusal :=
  guardRange (effAddr s 0) (x.toNat + 1) s
    (.next (s.advance.setMem (s.mem.writeBytes (effAddr s 0) (s.firstRegs (x.toNat + 1)))))

/-- LoadRegRange Vx (R205): V[0] to V[x] from I to I+x. -/
def execLoadRegRange (x : Nibble) (s : State) : Host.Outcome State Fault Refusal :=
  guardRange (effAddr s 0) (x.toNat + 1) s (.next (s.advance.loadRegs (effAddr s 0) (x.toNat + 1)))

end Sys2Proof.Machine
end

