-- ==== Sys2Proof/Machine/KeysTimers.lean ====
section
/-! DEFINITION. Keypad and timer instructions (45_keys_timers.md R240 to R247). The host writes the keypad and counts the
timers down between steps (Machine/HostOps.lean). -/

namespace Sys2Proof.Machine

/-- KeyPressed Vx (R241). -/
def execKeyPressed (x : Nibble) (s : State) : Host.Outcome State Fault Refusal := skipIf (s.keyDown (keyIndex s x)) s

/-- KeyNotPressed Vx (R242). -/
def execKeyNotPressed (x : Nibble) (s : State) : Host.Outcome State Fault Refusal := skipIf (!s.keyDown (keyIndex s x)) s

/-- WaitForKey Vx (R243): a busy spin by rewinding pc (R245, 90_conflicts.md C8); V[x] is not written (D17). -/
def execWaitForKey (x : Nibble) (s : State) : Host.Outcome State Fault Refusal :=
  .next (if s.keyDown (keyIndex s x) then s.advance else s.advance.setPc (s.advance.pc - 2))

/-- CheckDelay Vx (R244). -/
def execCheckDelay (x : Nibble) (s : State) : Host.Outcome State Fault Refusal := .next (s.advance.setReg x s.dt)

/-- SetDelay Vx (R246). -/
def execSetDelay (x : Nibble) (s : State) : Host.Outcome State Fault Refusal := .next (s.advance.setDelay (s.reg x))

/-- SetBuzzer Vx (R247). -/
def execSetBuzzer (x : Nibble) (s : State) : Host.Outcome State Fault Refusal := .next (s.advance.setSound (s.reg x))

end Sys2Proof.Machine
end

