-- ==== Sys2Proof/Machine/Dispatch.lean ====
section
/-! DEFINITION. exec: the pre-increment, the rule of one decoded instruction and its commit or fault (40_cycle.md R123 to R126),
one arm per constructor. The state given is the one before the step, with pc at the instruction. -/

namespace Sys2Proof.Machine

open Sys2Proof

def exec (i : Instr) (s : State) : Host.Outcome State Fault Refusal :=
  match i with
  -- families 0 to 5
  | .clear => Sys2Proof.Machine.execClear s
  | .ret => Sys2Proof.Machine.execRet s
  | .jump nnn => Sys2Proof.Machine.execJump nnn s
  | .call nnn => Sys2Proof.Machine.execCall nnn s
  | .skipImmEq x nn => Sys2Proof.Machine.execSkipImmEq x nn s
  | .skipImmNe x nn => Sys2Proof.Machine.execSkipImmNe x nn s
  | .skipRegEq x y => Sys2Proof.Machine.execSkipRegEq x y s
  -- families 6 to 8
  | .regAssign x nn => Sys2Proof.Machine.execRegAssign x nn s
  | .regIncr x nn => Sys2Proof.Machine.execRegIncr x nn s
  | .assign x y => Sys2Proof.Machine.execAssign x y s
  | .or x y => Sys2Proof.Machine.execOr x y s
  | .and x y => Sys2Proof.Machine.execAnd x y s
  | .xor x y => Sys2Proof.Machine.execXor x y s
  | .incrBy x y => Sys2Proof.Machine.execIncrBy x y s
  | .decrBy x y => Sys2Proof.Machine.execDecrBy x y s
  | .rightShift x y => Sys2Proof.Machine.execRightShift x y s
  | .invDecrBy x y => Sys2Proof.Machine.execInvDecrBy x y s
  | .leftShift x y => Sys2Proof.Machine.execLeftShift x y s
  -- families 9 to D
  | .skipRegNe x y => Sys2Proof.Machine.execSkipRegNe x y s
  | .setIndex nnn => Sys2Proof.Machine.execSetIndex nnn s
  | .relJump nnn => Sys2Proof.Machine.execRelJump nnn s
  | .random x nn => Sys2Proof.Machine.execRandom x nn s
  | .draw x y n => Sys2Proof.Machine.execDraw x y n s
  -- family E
  | .keyPressed x => Sys2Proof.Machine.execKeyPressed x s
  | .keyNotPressed x => Sys2Proof.Machine.execKeyNotPressed x s
  -- family F
  | .checkDelay x => Sys2Proof.Machine.execCheckDelay x s
  | .waitForKey x => Sys2Proof.Machine.execWaitForKey x s
  | .setDelay x => Sys2Proof.Machine.execSetDelay x s
  | .setBuzzer x => Sys2Proof.Machine.execSetBuzzer x s
  | .incrIndex x => Sys2Proof.Machine.execIncrIndex x s
  | .setIndexHex x => Sys2Proof.Machine.execSetIndexHex x s
  | .bcdReg x => Sys2Proof.Machine.execBcdReg x s
  | .saveRegRange x => Sys2Proof.Machine.execSaveRegRange x s
  | .loadRegRange x => Sys2Proof.Machine.execLoadRegRange x s

end Sys2Proof.Machine
end

