-- ==== Sys2Proof/Machine/Step.lean ====
section
/-! DEFINITION. One step (40_cycle.md R120, R127): refused in Faulted; else fetch, decode, exec. -/

namespace Sys2Proof.Machine

open Sys2Proof

/-- `step` (R127). exec does the pre-increment and the commit; the faults of the fetch and of the decode are taken here, in the
order of R130. -/
def step (s : State) : Host.Outcome State Fault Refusal :=
  match s.status with
  | .faulted f => .refused (.stepWhileFaulted f)
  | .running =>
    match s.fetch with
    | .error f => takeFault f s
    | .ok w =>
      match decode w with
      | .error _ => takeFault (.decodeError w) s
      | .ok i => exec i s

/-- `s` with the table's word stored big-endian at pc, where step fetches. Where pc leaves no room for a word nothing is
stored. -/
def State.withFetchWord (s : State) (nbits w : Nat) : State :=
  if s.pc.toNat + 1 < memSize then
    s.setMem (s.mem.writeBytes s.pc.toNat (bytesOfWord (tableWord nbits w)))
  else s

end Sys2Proof.Machine
end

