-- ==== Sys2Proof/Machine/HostOps.lean ====
section
/-! DEFINITION. The host's operations on the core (60_exceptions.md R270 to R276, 70_reset_and_hazards.md R293). Each is
atomic and happens between two steps (00_scope.md R6). `Session` adds the order in which the host may call them. -/

namespace Sys2Proof.Machine

open Sys2Proof Sys2Proof.Config

/-- A timer one tick on: down by 1, stopping at 0 (60_exceptions.md R270, R271). -/
def countDown (b : Byte) : Byte := if b = 0 then 0 else b - 1

/-- `tick_timers()` (R270), in either FSM state. -/
def tickTimers (s : State) : State := (s.setDelay (countDown s.dt)).setSound (countDown s.st)

/-- `set_key(index, pressed)` (R272): an index outside 0 to 15 is refused. -/
def setKey (index : Nat) (pressed : Bool) (s : State) : Host.Outcome State Fault Refusal :=
  if index < 16 then .next (s.setKeyDown (BitVec.ofNat 4 index) pressed) else .refused (.keyIndexOutOfRange index)

/-- `framebuffer_snapshot()` (R275): a copy of every pixel. -/
def framebufferSnapshot (s : State) : Framebuffer := s.fb

/-- LoadError (60_exceptions.md R264). -/
inductive LoadError where
  | tooLarge
  deriving DecidableEq, Repr

/-- `load_program(bytes)` (70_reset_and_hazards.md R293): the image verbatim from 0x200, or TooLarge. -/
def loadProgram (image : List Byte) (s : State) : Except LoadError State :=
  if maxProgram < image.length then .error .tooLarge else .ok (s.setMem (s.mem.writeBytes loadOffset image))

/-- What `step()` gives back to the host (60_exceptions.md R274): success, or the fault. -/
def stepResult (after : State) : Except Fault Unit :=
  match after.status with
  | .running => .ok ()
  | .faulted f => .error f

/-- Where the boot sequence stands (R293, R294): built, program loaded, or a step taken. -/
inductive BootPhase where
  | built
  | loaded
  | stepped
  deriving DecidableEq, Repr

/-- The core together with where its boot sequence stands. The phase is the host's duty made checkable, no state of the core. -/
structure Session where
  core : State
  phase : BootPhase
  deriving DecidableEq, Repr

/-- A new machine (70_reset_and_hazards.md R290). -/
def Session.construct : Session := { core := State.reset, phase := .built }

/-- The host's calls (60_exceptions.md R276). -/
inductive HostAction where
  | loadProgram (image : List Byte)
  | step
  | tickTimers
  | setKey (index : Nat) (pressed : Bool)
  | framebufferSnapshot
  deriving DecidableEq, Repr

/-- What a call gets back (60_exceptions.md R276, last column). -/
inductive HostAnswer where
  | nothing
  | loadResult (r : Option LoadError)
  | stepResult (r : Option Fault)
  | pixels (fb : Framebuffer)
  deriving DecidableEq, Repr

/-- `load_program` in a session: once, before the first step; after TooLarge the host may retry (R293, D20). -/
def Session.load (image : List Byte) (s : Session) : Host.Outcome (Session × HostAnswer) Fault Refusal :=
  match s.phase with
  | .built =>
    match loadProgram image s.core with
    | .ok core => .next ({ core := core, phase := .loaded }, .loadResult none)
    | .error e => .next (s, .loadResult (some e))
  | _ => .refused .loadOutOfOrder

/-- `step` in a session: the state after it, and success or the fault (R274). -/
def Session.step (s : Session) : Host.Outcome (Session × HostAnswer) Fault Refusal :=
  match Machine.step s.core with
  | .next core =>
    match stepResult core with
    | .ok _ => .next ({ core := core, phase := .stepped }, .stepResult none)
    | .error f => .next ({ core := core, phase := .stepped }, .stepResult (some f))
  | .fault f => .fault f
  | .refused r => .refused r

/-- One host action, whichever it is, in any interleaving the session allows (60_exceptions.md R276, D19). -/
def Session.act (a : HostAction) (s : Session) : Host.Outcome (Session × HostAnswer) Fault Refusal :=
  match a with
  | .loadProgram image => s.load image
  | .step => s.step
  | .tickTimers => .next ({ s with core := Machine.tickTimers s.core }, .nothing)
  | .setKey index pressed =>
    match Machine.setKey index pressed s.core with
    | .next core => .next ({ s with core := core }, .nothing)
    | .fault f => .fault f
    | .refused r => .refused r
  | .framebufferSnapshot => .next (s, .pixels (Machine.framebufferSnapshot s.core))

end Sys2Proof.Machine
end

