-- ==== Sys2Proof/Safety.lean ====
section
/-! DEFINITION. The terms claims are stated in: the parts of a state one by one and the frame (what a transition leaves
unchanged), the invariant of the machine, the access ranges and the pixels of a sprite, pc after a step, and parking. -/

namespace Sys2Proof.Machine

open Sys2Proof Sys2Proof.Config

/-- The parts of a state, each register, byte of memory, key and pixel apart (10_state.md R20). -/
inductive Component where
  | reg (r : Nibble)
  | index
  | pc
  | stack
  | byte (a : Nat)
  | delay
  | sound
  | key (k : Nibble)
  | pixel (x y : Nat)
  | compat
  | status
  | draws
  deriving DecidableEq, Repr

/-- The part `c` reads the same in `s` and in `t`. -/
def Component.agrees (c : Component) (s t : State) : Prop :=
  match c with
  | .reg r => t.reg r = s.reg r
  | .index => t.i = s.i
  | .pc => t.pc = s.pc
  | .stack => t.stack = s.stack
  | .byte a => t.byte a = s.byte a
  | .delay => t.dt = s.dt
  | .sound => t.st = s.st
  | .key k => t.keyDown k = s.keyDown k
  | .pixel x y => t.pixel x y = s.pixel x y
  | .compat => t.compat = s.compat
  | .status => t.status = s.status
  | .draws => t.draws = s.draws

/-- From `s` to `t` every part is unchanged but those `touched` holds of. -/
def FrameExcept (touched : Component → Prop) (s t : State) : Prop := ∀ c, ¬ touched c → c.agrees s t

/-- The state after a fault: as before the step, but for `status` (40_cycle.md R126). -/
abbrev State.faultedWith (s : State) (f : Fault) : State := { s with status := .faulted f }

/-- The invariant of the machine: memory in its canonical form, at most 16 return addresses (10_state.md R32), each at most
4096 (41_flow.md R142), and pc at most 0x10FE (10_state.md R27). -/
structure State.Inv (s : State) : Prop where
  memWf : Memory.wf s.mem
  stackDepth : s.stack.length ≤ stackCapacity
  stackEntries : ∀ a ∈ s.stack, a.toNat ≤ 4096
  pcBound : s.pc.toNat ≤ 0x10FE

/-- The address the first data access of an instruction uses and how many bytes it accesses (20_memory.md R56); no byte for an
instruction that does not reach memory. -/
def dataRange (i : Instr) (s : State) : Nat × Nat :=
  match i with
  | .draw _ _ n => (effAddr s 0, n.toNat)
  | .bcdReg _ => (effAddr s 0, 3)
  | .saveRegRange x => (effAddr s 0, x.toNat + 1)
  | .loadRegRange x => (effAddr s 0, x.toNat + 1)
  | _ => (effAddr s 0, 0)

/-- What the byte at `a` holds after an instruction that completed: the digit BcdReg stored there (43_index_memory.md R203), the
register SaveRegRange stored there (R204), and the old byte everywhere else and after any other instruction (20_memory.md R56). -/
def byteAfter (i : Instr) (s : State) (a : Nat) : Byte :=
  match i with
  | .bcdReg x =>
    if a = effAddr s 0 then BitVec.ofNat 8 ((s.reg x).toNat / 100)
    else if a = effAddr s 1 then BitVec.ofNat 8 ((s.reg x).toNat / 10 % 10)
    else if a = effAddr s 2 then BitVec.ofNat 8 ((s.reg x).toNat % 10)
    else s.byte a
  | .saveRegRange x =>
    if effAddr s 0 ≤ a ∧ a ≤ effAddr s x.toNat then s.reg (BitVec.ofNat 4 (a - effAddr s 0)) else s.byte a
  | _ => s.byte a

/-- The bit a Draw XORs into pixel (px, py): off where the sprite does not reach (44_display.md R220, R223). -/
def spritePixel (s : State) (x y n : Nibble) (px py : Nat) : Bool :=
  decide (originX s x ≤ px ∧ px < originX s x + 8 ∧ originY s y ≤ py ∧ py < originY s y + n.toNat) &&
    spriteBit (s.byte (effAddr s (py - originY s y))) (px - originX s x)

/-- A Draw would turn off a pixel of the grid that is on (44_display.md R225). -/
def drawErases (s : State) (x y n : Nibble) : Prop :=
  ∃ px py, px < screenW ∧ py < screenH ∧ s.pixel px py = true ∧ spritePixel s x y n px py = true

/-- The value of pc after a completed step, `old` being pc before it (10_state.md R26). -/
def pcAfter (i : Instr) (s : State) : Nat :=
  let old := s.pc.toNat
  let skip (taken : Bool) : Nat := if taken then old + 4 else old + 2
  match i with
  | .ret => (s.stack.headD 0).toNat
  | .jump nnn => nnn.toNat
  | .call nnn => nnn.toNat
  | .skipImmEq x nn => skip (s.reg x == nn)
  | .skipImmNe x nn => skip (s.reg x != nn)
  | .skipRegEq x y => skip (s.reg x == s.reg y)
  | .skipRegNe x y => skip (s.reg x != s.reg y)
  | .relJump nnn => nnn.toNat + (s.reg (relJumpReg s.compat nnn)).toNat
  | .keyPressed x => skip (s.keyDown (keyIndex s x))
  | .keyNotPressed x => skip (!s.keyDown (keyIndex s x))
  | .waitForKey x => if s.keyDown (keyIndex s x) then old + 2 else old
  | _ => old + 2

/-- What an instruction may write beside pc (10_state.md R24, R28, R31, R32, R34, R36; 20_memory.md R56; 40_cycle.md R129):
its destination, VF where it is a flag writer, the bytes it stores, and `status` where it can fault. -/
def mayWrite (i : Instr) (s : State) (c : Component) : Prop :=
  match i with
  | .clear => ∃ px py, c = .pixel px py
  | .ret => c = .stack ∨ c = .status
  | .call _ => c = .stack ∨ c = .status
  | .regAssign x _ => c = .reg x
  | .regIncr x _ => c = .reg x
  | .assign x _ => c = .reg x
  | .or x _ => c = .reg x
  | .and x _ => c = .reg x
  | .xor x _ => c = .reg x
  | .incrBy x _ => c = .reg x ∨ c = .reg vf
  | .decrBy x _ => c = .reg x ∨ c = .reg vf
  | .rightShift x _ => c = .reg x ∨ c = .reg vf
  | .invDecrBy x _ => c = .reg x ∨ c = .reg vf
  | .leftShift x _ => c = .reg x ∨ c = .reg vf
  | .setIndex _ => c = .index
  | .random x _ => c = .reg x ∨ c = .draws
  | .draw _ _ _ => (∃ px py, c = .pixel px py) ∨ c = .reg vf ∨ c = .status
  | .checkDelay x => c = .reg x
  | .setDelay _ => c = .delay
  | .setBuzzer _ => c = .sound
  | .incrIndex _ => c = .index ∨ c = .reg vf
  | .setIndexHex _ => c = .index
  | .bcdReg _ => (∃ k, k < 3 ∧ c = .byte (effAddr s k)) ∨ c = .status
  | .saveRegRange x => (∃ k, k ≤ x.toNat ∧ c = .byte (effAddr s k)) ∨ c = .status
  | .loadRegRange x => (∃ r : Nibble, r ≤ x ∧ c = .reg r) ∨ c = .status
  | _ => False

/-- The core is parked at a self-jump (40_cycle.md R131): the word at pc decodes to a Jump to pc. -/
def State.parked (s : State) : Prop :=
  s.status = .running ∧ ∃ w nnn, s.fetch = .ok w ∧ decode w = .ok (.jump nnn) ∧ nnn.toNat = s.pc.toNat

end Sys2Proof.Machine
end

