-- ==== Sys2Proof/Certificates/Slice0/Obligations.lean ====
section
/-! DEFINITION. The statements for the provers. Each docstring names the rule of spec/ it formalises; a statement that rests on
a decision of the spec or on a convention of the model says so. `vf` is V[15]. -/

open Sys2Proof Sys2Proof.Machine Sys2Proof.Config

/-! ### Encoding -/

/-- 30_encoding.md R81, R84 to R87: no bit of an operand is dropped by the encoder or misread by the decoder, for every
instruction and every operand value. -/
def Obligations.DecodeOfEncodeIsTheInstruction : Prop :=
  ∀ i : Instr, decode (encode i) = .ok i

/-- 30_encoding.md R93: re-encoding what a legal word decodes to gives the word back, so decode is injective on legal words. -/
def Obligations.ReencodingADecodedWordGivesItBack : Prop :=
  (∀ (w : Word) (i : Instr), decode w = .ok i → encode i = w) ∧
  (∀ (w w' : Word) (i : Instr), decode w = .ok i → decode w' = .ok i → w = w')

/-- 30_encoding.md R90, which rests on the spec's decisions D2, D3 and D4: the words its list names, and only they, are errors,
and the error records the word. -/
def Obligations.DecodeErrorsAreExactlyTheIllegalWords : Prop :=
  ∀ w : Word, (illegalWord w = true ↔ decode w = .error (.illegalWord w)) ∧
    (illegalWord w = false ↔ ∃ i, decode w = .ok i)

/-- Words of each of the 16 families from the tables of 95_test_vectors.md section 2 decode as those tables say. The numbers rest
on the spec's decisions D2, D3 and D4 (log entry 13). -/
def Obligations.SampleWordsDecode : Prop :=
  decode 0x00E0 = .ok .clear ∧ decode 0x00EE = .ok .ret ∧ decode 0x10E0 = .ok (.jump 0x0E0) ∧
  decode 0x2234 = .ok (.call 0x234) ∧ decode 0x3310 = .ok (.skipImmEq 3 0x10) ∧
  decode 0x4310 = .ok (.skipImmNe 3 0x10) ∧ decode 0x5120 = .ok (.skipRegEq 1 2) ∧
  decode 0x6A7F = .ok (.regAssign 0xA 0x7F) ∧ decode 0x71FF = .ok (.regIncr 1 0xFF) ∧
  decode 0x8AB4 = .ok (.incrBy 0xA 0xB) ∧ decode 0x9120 = .ok (.skipRegNe 1 2) ∧
  decode 0xAFFF = .ok (.setIndex 0xFFF) ∧ decode 0xB123 = .ok (.relJump 0x123) ∧
  decode 0xC20F = .ok (.random 2 0x0F) ∧ decode 0xDEF3 = .ok (.draw 0xE 0xF 3) ∧
  decode 0xEFA1 = .ok (.keyNotPressed 0xF) ∧ decode 0xF565 = .ok (.loadRegRange 5) ∧
  decode 0x0123 = .error (.illegalWord 0x0123) ∧ decode 0x5121 = .error (.illegalWord 0x5121) ∧
  decode 0x800F = .error (.illegalWord 0x800F) ∧ decode 0x912F = .error (.illegalWord 0x912F) ∧
  decode 0xE09F = .error (.illegalWord 0xE09F) ∧ decode 0xF000 = .error (.illegalWord 0xF000)

/-! ### The step -/

/-- 40_cycle.md R121, R122, R124: in Running, when the two bytes at pc (the first the high byte) decode to `i`, the step is
exec of `i` at that state. step adds nothing around exec; exec itself contains the pre-increment. -/
def Obligations.StepRunsTheDecodedInstruction : Prop :=
  ∀ (s : State) (i : Instr), s.status = .running → s.pc.toNat + 1 < 4096 →
    decode (s.byte s.pc.toNat ++ s.byte (s.pc.toNat + 1)) = .ok i → step s = exec i s

/-- 40_cycle.md R121 with R126 (decision D12, log entry 2): a fetch at 4096 or above records pc, a fetch at 4095 records 4096,
and nothing but status changes. -/
def Obligations.FetchOutsideMemoryFaults : Prop :=
  ∀ s : State, s.status = .running →
    (4096 ≤ s.pc.toNat → step s = .next (s.faultedWith (.memoryBounds s.pc.toNat))) ∧
    (s.pc.toNat = 4095 → step s = .next (s.faultedWith (.memoryBounds 4096)))

/-- 30_encoding.md R91: a DecodeError is a fault of the step that fetched the word; it records the word and commits nothing. -/
def Obligations.IllegalWordFaultsWithTheWord : Prop :=
  ∀ (s : State) (w : Word), s.status = .running → s.fetch = .ok w → illegalWord w = true →
    step s = .next (s.faultedWith (.decodeError w))

/-- 40_cycle.md R120 (decision D12, log entry 2): Faulted has no outgoing transition; the step is refused, whatever the fault. -/
def Obligations.StepInFaultedIsRefused : Prop :=
  ∀ (s : State) (f : Fault), s.status = .faulted f → step s = .refused (.stepWhileFaulted f)

/-- 40_cycle.md R126 (decision D12, log entry 2): over all instructions and all faults, a step that ends in Faulted has
committed nothing. -/
def Obligations.FaultingStepChangesOnlyStatus : Prop :=
  ∀ (s t : State) (f : Fault), s.status = .running → step s = .next t → t.status = .faulted f → t = s.faultedWith f

/-- 40_cycle.md R129, R130 (decisions D11, D29): an instruction ends in Running, but for Return on an empty stack, Call on a
full one (16 entries or more, log entry 7), and a data access that reaches 4096 or above, which records the first such
address. -/
def Obligations.OnlyTheListedInstructionsFault : Prop :=
  ∀ (i : Instr) (s : State), s.status = .running → ∃ t, exec i s = .next t ∧
    ((t.status = .running ∧ ¬ (i = .ret ∧ s.stack = []) ∧ ¬ ((∃ nnn, i = .call nnn) ∧ 16 ≤ s.stack.length) ∧
        ((dataRange i s).2 = 0 ∨ (dataRange i s).1 + (dataRange i s).2 ≤ 4096)) ∨
      (i = .ret ∧ s.stack = [] ∧ t.status = .faulted .stackUnderflow) ∨
      ((∃ nnn, i = .call nnn) ∧ 16 ≤ s.stack.length ∧ t.status = .faulted .stackOverflow) ∨
      (0 < (dataRange i s).2 ∧ 4096 < (dataRange i s).1 + (dataRange i s).2 ∧
        t.status = .faulted (.memoryBounds (max (dataRange i s).1 4096))))

/-! ### Reset and the invariant -/

/-- 10_state.md R38. I and fb are 0 and status is Running by the spec's decisions D15 and D12, the font bytes by D16 (log
entries 2, 11, 12); compat is the open P_COMPAT (log entry 1). -/
def Obligations.ResetValues : Prop :=
  (∀ x, State.reset.reg x = 0) ∧ State.reset.i = 0 ∧ State.reset.pc = 0x200 ∧ State.reset.stack = [] ∧
  (∀ d k, d < 16 → k < 5 → some (State.reset.byte (5 * d + k)) = pFont[5 * d + k]?) ∧
  (∀ a, 80 ≤ a → State.reset.byte a = 0) ∧ State.reset.dt = 0 ∧ State.reset.st = 0 ∧
  (∀ k, State.reset.keyDown k = false) ∧ (∀ x y, State.reset.pixel x y = false) ∧
  State.reset.compat = pCompat ∧ State.reset.status = .running

/-- The invariant (memory canonical, at most 16 return addresses of at most 4096, pc at most 0x10FE) holds at reset. -/
def Obligations.ResetMeetsTheInvariant : Prop := State.reset.Inv

/-- 10_state.md R27, R32, 20_memory.md R55: from every state that meets the invariant, every step keeps it: pc never wraps, the
stack never outgrows its capacity, memory stays canonical and inside 0 to 4095. -/
def Obligations.StepKeepsTheInvariant : Prop :=
  ∀ s t : State, s.Inv → step s = .next t → t.Inv

/-- 60_exceptions.md R276 (decision D19, log entry 18): no host action breaks the invariant either. -/
def Obligations.HostActionsKeepTheInvariant : Prop :=
  ∀ (σ σ' : Session) (a : HostAction) (r : HostAnswer), σ.core.Inv → σ.act a = .next (σ', r) → σ'.core.Inv

/-! ### Control transfer -/

/-- 41_flow.md R141. -/
def Obligations.JumpSetsPc : Prop :=
  ∀ (nnn : Imm12) (s : State), ∃ t, exec (.jump nnn) s = .next t ∧ t.pc.toNat = nnn.toNat ∧
    FrameExcept (fun c => c = .pc) s t

/-- 41_flow.md R142: pushes the advanced pc, or faults on a full stack. The overflow and the capacity are the spec's decision
D11; that the fault is raised at every depth from the capacity up, and not at the capacity alone, is the model's own choice (log
entry 7). -/
def Obligations.CallPushesTheAdvancedPc : Prop :=
  ∀ (nnn : Imm12) (s : State),
    (s.stack.length < stackCapacity → ∃ t, exec (.call nnn) s = .next t ∧ t.pc.toNat = nnn.toNat ∧
      t.stack = (s.pc + 2) :: s.stack ∧ FrameExcept (fun c => c = .pc ∨ c = .stack) s t) ∧
    (stackCapacity ≤ s.stack.length → exec (.call nnn) s = .next (s.faultedWith .stackOverflow))

/-- 41_flow.md R140. -/
def Obligations.ReturnPopsPc : Prop :=
  ∀ s : State,
    (∀ top rest, s.stack = top :: rest → ∃ t, exec .ret s = .next t ∧ t.pc = top ∧ t.stack = rest ∧
      FrameExcept (fun c => c = .pc ∨ c = .stack) s t) ∧
    (s.stack = [] → exec .ret s = .next (s.faultedWith .stackUnderflow))

/-- 95_test_vectors.md S8, 41_flow.md R140, R142: Call and then Return come back to the instruction after the Call, with the
stack as it was, from wherever the Return is fetched. -/
def Obligations.ReturnUndoesCall : Prop :=
  ∀ (nnn : Imm12) (s : State) (a : Word), s.stack.length < stackCapacity → ∃ t u, exec (.call nnn) s = .next t ∧
    exec .ret { t with pc := a } = .next u ∧ u.pc = s.pc + 2 ∧ FrameExcept (fun c => c = .pc) s u

/-- 41_flow.md R143, R144. -/
def Obligations.ImmediateSkips : Prop :=
  ∀ (x : Nibble) (nn : Byte) (s : State),
    (∃ t, exec (.skipImmEq x nn) s = .next t ∧ t.pc = (if s.reg x = nn then s.pc + 4 else s.pc + 2) ∧
      FrameExcept (fun c => c = .pc) s t) ∧
    (∃ t, exec (.skipImmNe x nn) s = .next t ∧ t.pc = (if s.reg x = nn then s.pc + 2 else s.pc + 4) ∧
      FrameExcept (fun c => c = .pc) s t)

/-- 41_flow.md R145, R146. -/
def Obligations.RegisterSkips : Prop :=
  ∀ (x y : Nibble) (s : State),
    (∃ t, exec (.skipRegEq x y) s = .next t ∧ t.pc = (if s.reg x = s.reg y then s.pc + 4 else s.pc + 2) ∧
      FrameExcept (fun c => c = .pc) s t) ∧
    (∃ t, exec (.skipRegNe x y) s = .next t ∧ t.pc = (if s.reg x = s.reg y then s.pc + 2 else s.pc + 4) ∧
      FrameExcept (fun c => c = .pc) s t)

/-- 41_flow.md R147: the register is V0 under Legacy and V[nnn[11:8]] under Modern; the sum is not masked, by decision D14 (log
entry 14). -/
def Obligations.RelJumpAddsARegister : Prop :=
  ∀ (nnn : Imm12) (s : State), ∃ t, exec (.relJump nnn) s = .next t ∧
    (s.compat = .legacy → t.pc.toNat = nnn.toNat + (s.reg 0).toNat) ∧
    (s.compat = .modern → ∀ r : Nibble, r.toNat = nnn.toNat / 256 → t.pc.toNat = nnn.toNat + (s.reg r).toNat) ∧
    FrameExcept (fun c => c = .pc) s t

/-- 40_cycle.md R131 (decision D27): a step of a core parked at a self-jump changes nothing at all. -/
def Obligations.ParkedStepChangesNothing : Prop :=
  ∀ s : State, s.parked → step s = .next s

/-! ### ALU -/

/-- 42_alu.md R162, R164. -/
def Obligations.AssignmentsWriteOneRegister : Prop :=
  ∀ (x y : Nibble) (nn : Byte) (s : State),
    (∃ t, exec (.regAssign x nn) s = .next t ∧ t.reg x = nn ∧ t.pc = s.pc + 2 ∧
      FrameExcept (fun c => c = .pc ∨ c = .reg x) s t) ∧
    (∃ t, exec (.assign x y) s = .next t ∧ t.reg x = s.reg y ∧ t.pc = s.pc + 2 ∧
      FrameExcept (fun c => c = .pc ∨ c = .reg x) s t)

/-- 42_alu.md R163: the sum wraps and VF is not written, unless x = F, when it is the destination. -/
def Obligations.RegIncrWrapsWithoutFlag : Prop :=
  ∀ (x : Nibble) (nn : Byte) (s : State), ∃ t, exec (.regIncr x nn) s = .next t ∧
    (t.reg x).toNat = ((s.reg x).toNat + nn.toNat) % 256 ∧ t.pc = s.pc + 2 ∧
    FrameExcept (fun c => c = .pc ∨ c = .reg x) s t

/-- 42_alu.md R165, R166, R167, bit by bit: VF is not cleared. -/
def Obligations.BitwiseOperations : Prop :=
  ∀ (x y : Nibble) (s : State),
    (∃ t, exec (.or x y) s = .next t ∧
      (∀ k, (t.reg x).getLsbD k = ((s.reg x).getLsbD k || (s.reg y).getLsbD k)) ∧ t.pc = s.pc + 2 ∧
      FrameExcept (fun c => c = .pc ∨ c = .reg x) s t) ∧
    (∃ t, exec (.and x y) s = .next t ∧
      (∀ k, (t.reg x).getLsbD k = ((s.reg x).getLsbD k && (s.reg y).getLsbD k)) ∧ t.pc = s.pc + 2 ∧
      FrameExcept (fun c => c = .pc ∨ c = .reg x) s t) ∧
    (∃ t, exec (.xor x y) s = .next t ∧
      (∀ k, (t.reg x).getLsbD k = ((s.reg x).getLsbD k ^^ (s.reg y).getLsbD k)) ∧ t.pc = s.pc + 2 ∧
      FrameExcept (fun c => c = .pc ∨ c = .reg x) s t)

/-- 42_alu.md R168: the wrapped sum, then the carry by the wraparound comparison; with x = F, VF ends as the carry. -/
def Obligations.IncrByAddsWithCarry : Prop :=
  ∀ (x y : Nibble) (s : State), ∃ t, exec (.incrBy x y) s = .next t ∧
    (x ≠ vf → (t.reg x).toNat = ((s.reg x).toNat + (s.reg y).toNat) % 256) ∧
    t.reg vf = (if ((s.reg x).toNat + (s.reg y).toNat) % 256 < (s.reg y).toNat then 1 else 0) ∧
    t.pc = s.pc + 2 ∧ FrameExcept (fun c => c = .pc ∨ c = .reg x ∨ c = .reg vf) s t

/-- 42_alu.md R168, its derived remark: the wraparound comparison is the true carry, including when x = y and when x or y is F;
so the register pair (VF, V[x]) holds the whole 9-bit sum when x is not F. -/
def Obligations.IncrByKeepsTheWholeSum : Prop :=
  ∀ (x y : Nibble) (s t : State), exec (.incrBy x y) s = .next t →
    (t.reg vf = 1 ↔ 256 ≤ (s.reg x).toNat + (s.reg y).toNat) ∧
    (x ≠ vf → 256 * (t.reg vf).toNat + (t.reg x).toNat = (s.reg x).toNat + (s.reg y).toNat)

/-- 42_alu.md R169, R170: the difference wraps, the flag is the strict comparison; with x = F, which of the two VF ends as
follows P_VF_WRITE_ORDER, whose decided value is SourceOrder (D6, log entry 6). -/
def Obligations.SubtractionsSetNoBorrow : Prop :=
  ∀ (x y : Nibble) (s : State),
    (∃ t, exec (.decrBy x y) s = .next t ∧
      ((x ≠ vf ∨ pVfWriteOrder = .sourceOrder) →
        (t.reg x).toNat = ((s.reg x).toNat + 256 - (s.reg y).toNat) % 256) ∧
      ((x ≠ vf ∨ pVfWriteOrder = .flagLast) →
        t.reg vf = (if (s.reg y).toNat < (s.reg x).toNat then 1 else 0)) ∧ t.pc = s.pc + 2 ∧
      FrameExcept (fun c => c = .pc ∨ c = .reg x ∨ c = .reg vf) s t) ∧
    (∃ t, exec (.invDecrBy x y) s = .next t ∧
      ((x ≠ vf ∨ pVfWriteOrder = .sourceOrder) →
        (t.reg x).toNat = ((s.reg y).toNat + 256 - (s.reg x).toNat) % 256) ∧
      ((x ≠ vf ∨ pVfWriteOrder = .flagLast) →
        t.reg vf = (if (s.reg x).toNat < (s.reg y).toNat then 1 else 0)) ∧ t.pc = s.pc + 2 ∧
      FrameExcept (fun c => c = .pc ∨ c = .reg x ∨ c = .reg vf) s t)

/-- 42_alu.md R171: `src` is V[y] under Legacy and V[x] under Modern; the write order with x = F as for the subtractions. -/
def Obligations.RightShiftHalvesTheSource : Prop :=
  ∀ (x y : Nibble) (s : State) (src : Byte), src = (if s.compat = .legacy then s.reg y else s.reg x) →
    ∃ t, exec (.rightShift x y) s = .next t ∧
      ((x ≠ vf ∨ pVfWriteOrder = .sourceOrder) → (t.reg x).toNat = src.toNat / 2) ∧
      ((x ≠ vf ∨ pVfWriteOrder = .flagLast) → (t.reg vf).toNat = src.toNat % 2) ∧ t.pc = s.pc + 2 ∧
      FrameExcept (fun c => c = .pc ∨ c = .reg x ∨ c = .reg vf) s t

/-- 42_alu.md R172: the flag is bit 7 of the source, or 0 under ReferenceDefect; the decided P_SHL_FLAG is Documented (D8, log
entry 4). -/
def Obligations.LeftShiftDoublesTheSource : Prop :=
  ∀ (x y : Nibble) (s : State) (src : Byte), src = (if s.compat = .legacy then s.reg y else s.reg x) →
    ∃ t, exec (.leftShift x y) s = .next t ∧
      ((x ≠ vf ∨ pVfWriteOrder = .sourceOrder) → (t.reg x).toNat = src.toNat * 2 % 256) ∧
      ((x ≠ vf ∨ pVfWriteOrder = .flagLast) →
        (t.reg vf).toNat = (if pShlFlag = .documented then src.toNat / 128 else 0)) ∧ t.pc = s.pc + 2 ∧
      FrameExcept (fun c => c = .pc ∨ c = .reg x ∨ c = .reg vf) s t

/-- 42_alu.md R173: the draw is the opaque oracle at the model's counter `draws` (log entry 3), so this holds for every value
of the draw; no bit outside the mask is ever set, and the next Random takes the next draw. -/
def Obligations.RandomMasksAFreshDraw : Prop :=
  ∀ (x : Nibble) (nn : Byte) (s : State), ∃ t, exec (.random x nn) s = .next t ∧
    t.reg x = (randomDraw s.draws &&& nn) ∧ (∀ k, nn.getLsbD k = false → (t.reg x).getLsbD k = false) ∧
    t.draws = s.draws + 1 ∧ t.pc = s.pc + 2 ∧
    FrameExcept (fun c => c = .pc ∨ c = .reg x ∨ c = .draws) s t

/-! ### Index register and memory -/

/-- 43_index_memory.md R200, R202: zero-extended, and the whole byte times 5. -/
def Obligations.IndexIsSetWhole : Prop :=
  ∀ (nnn : Imm12) (x : Nibble) (s : State),
    (∃ t, exec (.setIndex nnn) s = .next t ∧ t.i.toNat = nnn.toNat ∧ t.pc = s.pc + 2 ∧
      FrameExcept (fun c => c = .pc ∨ c = .index) s t) ∧
    (∃ t, exec (.setIndexHex x) s = .next t ∧ t.i.toNat = (s.reg x).toNat * 5 ∧ t.pc = s.pc + 2 ∧
      FrameExcept (fun c => c = .pc ∨ c = .index) s t)

/-- 43_index_memory.md R201 (VF is 0 without a wrap by decision D7, log entry 9). -/
def Obligations.IncrIndexFlagsOnlyTheWrap : Prop :=
  ∀ (x : Nibble) (s : State), ∃ t, exec (.incrIndex x) s = .next t ∧
    t.i.toNat = (s.i.toNat + (s.reg x).toNat) % 65536 ∧
    t.reg vf = (if 65536 ≤ s.i.toNat + (s.reg x).toNat then 1 else 0) ∧ t.pc = s.pc + 2 ∧
    FrameExcept (fun c => c = .pc ∨ c = .index ∨ c = .reg vf) s t

/-- 43_index_memory.md R203: three digits at I, I+1, I+2, or the bounds fault with nothing written (addresses do not wrap, by
decision D13, log entry 15). -/
def Obligations.BcdStoresThreeDigits : Prop :=
  ∀ (x : Nibble) (s : State),
    (effAddr s 2 < 4096 → ∃ t, exec (.bcdReg x) s = .next t ∧
      (t.byte (effAddr s 0)).toNat = (s.reg x).toNat / 100 ∧
      (t.byte (effAddr s 1)).toNat = (s.reg x).toNat / 10 % 10 ∧
      (t.byte (effAddr s 2)).toNat = (s.reg x).toNat % 10 ∧ t.pc = s.pc + 2 ∧
      FrameExcept (fun c => c = .pc ∨ ∃ k, k < 3 ∧ c = .byte (effAddr s k)) s t) ∧
    (4096 ≤ effAddr s 2 → exec (.bcdReg x) s = .next (s.faultedWith (.memoryBounds (max s.i.toNat 4096))))

/-- 43_index_memory.md R204: V[0] to V[x] at I to I+x, I unchanged, or the bounds fault with nothing written (D13, log
entry 15). -/
def Obligations.SaveStoresTheRegisterRange : Prop :=
  ∀ (x : Nibble) (s : State),
    (effAddr s x.toNat < 4096 → ∃ t, exec (.saveRegRange x) s = .next t ∧
      (∀ k : Nibble, k ≤ x → t.byte (effAddr s k.toNat) = s.reg k) ∧ t.pc = s.pc + 2 ∧
      FrameExcept (fun c => c = .pc ∨ ∃ k, k ≤ x.toNat ∧ c = .byte (effAddr s k)) s t) ∧
    (4096 ≤ effAddr s x.toNat →
      exec (.saveRegRange x) s = .next (s.faultedWith (.memoryBounds (max s.i.toNat 4096))))

/-- 43_index_memory.md R205: V[0] to V[x] from I to I+x, I unchanged, or the bounds fault with nothing loaded (D13, log
entry 15). -/
def Obligations.LoadFillsTheRegisterRange : Prop :=
  ∀ (x : Nibble) (s : State),
    (effAddr s x.toNat < 4096 → ∃ t, exec (.loadRegRange x) s = .next t ∧
      (∀ k : Nibble, k ≤ x → t.reg k = s.byte (effAddr s k.toNat)) ∧ t.pc = s.pc + 2 ∧
      FrameExcept (fun c => c = .pc ∨ ∃ r : Nibble, r ≤ x ∧ c = .reg r) s t) ∧
    (4096 ≤ effAddr s x.toNat →
      exec (.loadRegRange x) s = .next (s.faultedWith (.memoryBounds (max s.i.toNat 4096))))

/-- 43_index_memory.md R204, R205: what SaveRegRange stored, LoadRegRange brings back, whatever the registers held between. -/
def Obligations.LoadRestoresWhatSaveStored : Prop :=
  ∀ (x : Nibble) (s : State) (v : Vector Byte 16), effAddr s x.toNat < 4096 →
    ∃ t u, exec (.saveRegRange x) s = .next t ∧ exec (.loadRegRange x) { t with v := v } = .next u ∧
      ∀ k : Nibble, k ≤ x → u.reg k = s.reg k

/-- 20_memory.md R52, R62 (decision D24): after a BcdReg or a SaveRegRange a fetch anywhere inside memory, at the new pc among
others, reads the bytes it stored, and the old ones where it stored none, the lower address as the high byte. -/
def Obligations.FetchSeesEarlierStores : Prop :=
  ∀ (i : Instr) (x : Nibble) (s : State),
    (i = .bcdReg x ∧ effAddr s 2 < 4096) ∨ (i = .saveRegRange x ∧ effAddr s x.toNat < 4096) →
    ∃ t, exec i s = .next t ∧ ∀ a : Word, a.toNat + 1 < 4096 →
      ({ t with pc := a } : State).fetch = .ok (byteAfter i s a.toNat ++ byteAfter i s (a.toNat + 1))

/-! ### Display -/

/-- 44_display.md R221. -/
def Obligations.ClearTurnsEveryPixelOff : Prop :=
  ∀ s : State, ∃ t, exec .clear s = .next t ∧ (∀ px py, t.pixel px py = false) ∧ t.pc = s.pc + 2 ∧
    FrameExcept (fun c => c = .pc ∨ ∃ px py, c = .pixel px py) s t

/-- 44_display.md R220, R222, R223, R224: every pixel of the grid is XORed with the sprite's bit there, the origin reduced
once and the rest clipped; VF is the collision flag under P_DRAW_COLLISION, whose decided value is true (D9, log entry 5); a row
outside memory faults with nothing drawn, even a clipped one. -/
def Obligations.DrawXorsTheClippedSprite : Prop :=
  ∀ (x y n : Nibble) (s : State),
    ((n = 0 ∨ effAddr s (n.toNat - 1) < 4096) → ∃ t, exec (.draw x y n) s = .next t ∧
      (∀ px py, px < 64 → py < 32 → t.pixel px py = (s.pixel px py ^^ spritePixel s x y n px py)) ∧
      ((pDrawCollision = true ∧ t.reg vf = 1 ∧ drawErases s x y n) ∨
        (pDrawCollision = true ∧ t.reg vf = 0 ∧ ¬ drawErases s x y n) ∨
        (pDrawCollision = false ∧ t.reg vf = s.reg vf)) ∧ t.pc = s.pc + 2 ∧
      FrameExcept (fun c => c = .pc ∨ c = .reg vf ∨ ∃ px py, c = .pixel px py) s t) ∧
    (n ≠ 0 → 4096 ≤ effAddr s (n.toNat - 1) →
      exec (.draw x y n) s = .next (s.faultedWith (.memoryBounds (max s.i.toNat 4096))))

/-- 44_display.md R226: a second Draw with the same origin registers, I, n and memory bytes leaves every pixel as before the
first, and sets VF = 1 exactly when the first turned a pixel on. `s'` is the state the second Draw starts from. -/
def Obligations.DrawingTwiceRestoresThePixels : Prop :=
  ∀ (x y n : Nibble) (s : State), (n = 0 ∨ effAddr s (n.toNat - 1) < 4096) →
    ∃ t, exec (.draw x y n) s = .next t ∧
      ∀ s' : State, s'.fb = t.fb → s'.reg x = s.reg x → s'.reg y = s.reg y → s'.i = s.i →
        (∀ r, r < n.toNat → s'.byte (effAddr s r) = s.byte (effAddr s r)) →
        ∃ u, exec (.draw x y n) s' = .next u ∧ (∀ px py, u.pixel px py = s.pixel px py) ∧
          (pDrawCollision = true →
            (u.reg vf = 1 ↔ ∃ px py, px < 64 ∧ py < 32 ∧ s.pixel px py = false ∧ t.pixel px py = true))

/-! ### Keys and timers -/

/-- 45_keys_timers.md R241, R242: the key is the low nibble of V[x]. -/
def Obligations.KeySkips : Prop :=
  ∀ (x k : Nibble) (s : State), k.toNat = (s.reg x).toNat % 16 →
    (∃ t, exec (.keyPressed x) s = .next t ∧ t.pc = (if s.keyDown k = true then s.pc + 4 else s.pc + 2) ∧
      FrameExcept (fun c => c = .pc) s t) ∧
    (∃ t, exec (.keyNotPressed x) s = .next t ∧ t.pc = (if s.keyDown k = true then s.pc + 2 else s.pc + 4) ∧
      FrameExcept (fun c => c = .pc) s t)

/-- 45_keys_timers.md R243 (which key, and that V[x] is not written, by decision D17, log entry 10): with the key up the
instruction leaves the whole state as it was; with the key down it only advances pc. -/
def Obligations.WaitForKeySpinsUntilItsKey : Prop :=
  ∀ (x k : Nibble) (s : State), k.toNat = (s.reg x).toNat % 16 →
    (s.keyDown k = false → exec (.waitForKey x) s = .next s) ∧
    (s.keyDown k = true → exec (.waitForKey x) s = .next { s with pc := s.pc + 2 })

/-- 45_keys_timers.md R244, R246, R247. -/
def Obligations.TimerTransfers : Prop :=
  ∀ (x : Nibble) (s : State),
    (∃ t, exec (.checkDelay x) s = .next t ∧ t.reg x = s.dt ∧ t.pc = s.pc + 2 ∧
      FrameExcept (fun c => c = .pc ∨ c = .reg x) s t) ∧
    (∃ t, exec (.setDelay x) s = .next t ∧ t.dt = s.reg x ∧ t.pc = s.pc + 2 ∧
      FrameExcept (fun c => c = .pc ∨ c = .delay) s t) ∧
    (∃ t, exec (.setBuzzer x) s = .next t ∧ t.st = s.reg x ∧ t.pc = s.pc + 2 ∧
      FrameExcept (fun c => c = .pc ∨ c = .sound) s t)

/-- 45_keys_timers.md R243, R245, 95_test_vectors.md P7 (log entry 10): a step at a WaitForKey whose key is up changes
nothing; after the host presses that key, the next step goes past it; pressing another key does not end the spin. -/
def Obligations.SetKeyEndsTheSpin : Prop :=
  ∀ (s : State) (w : Word) (x k j : Nibble), s.status = .running → s.fetch = .ok w → decode w = .ok (.waitForKey x) →
    k.toNat = (s.reg x).toNat % 16 → s.keyDown k = false → j ≠ k →
    step s = .next s ∧
    (∃ t, setKey k.toNat true s = .next t ∧ step t = .next { t with pc := s.pc + 2 }) ∧
    (∃ u, setKey j.toNat true s = .next u ∧ step u = .next u)

/-! ### The host interface -/

/-- 60_exceptions.md R270: each nonzero timer goes down by 1, a zero one stays, in either FSM state; nothing else changes. -/
def Obligations.TickTimersCountsDown : Prop :=
  ∀ s : State, (tickTimers s).dt.toNat = s.dt.toNat - 1 ∧ (tickTimers s).st.toNat = s.st.toNat - 1 ∧
    FrameExcept (fun c => c = .delay ∨ c = .sound) s (tickTimers s)

/-- 60_exceptions.md R272 (that another index is refused by decision D20, log entry 18). -/
def Obligations.SetKeyWritesOneKey : Prop :=
  ∀ (index : Nat) (pressed : Bool) (s : State),
    (∀ k : Nibble, k.toNat = index → ∃ t, setKey index pressed s = .next t ∧ t.keyDown k = pressed ∧
      FrameExcept (fun c => c = .key k) s t) ∧
    (16 ≤ index → setKey index pressed s = .refused (.keyIndexOutOfRange index))

/-- 70_reset_and_hazards.md R293 (how often and when by decision D20, log entry 18): the image verbatim from 0x200, or TooLarge
with the session as it was; a call after a program is loaded or a step was taken is refused. -/
def Obligations.LoadProgramCopiesTheImage : Prop :=
  ∀ (image : List Byte) (σ : Session),
    (σ.phase = .built → image.length ≤ 3584 → ∃ σ', σ.act (.loadProgram image) = .next (σ', .loadResult none) ∧
      σ'.phase = .loaded ∧ (∀ k b, image[k]? = some b → σ'.core.byte (0x200 + k) = b) ∧
      FrameExcept (fun c => ∃ k, k < image.length ∧ c = .byte (0x200 + k)) σ.core σ'.core) ∧
    (σ.phase = .built → 3584 < image.length →
      σ.act (.loadProgram image) = .next (σ, .loadResult (some .tooLarge))) ∧
    (σ.phase ≠ .built → σ.act (.loadProgram image) = .refused .loadOutOfOrder)

/-- 60_exceptions.md R274: in Running, the host's step always has an answer, success or the fault that status now holds, and
the core after it is the one `step` gives. That a fault is a next state is the model's form (log entry 2), and the session and its
phase `stepped` are the model's too (log entry 18). -/
def Obligations.HostStepReportsTheFault : Prop :=
  ∀ σ : Session, σ.core.status = .running →
    ∃ t r, step σ.core = .next t ∧ σ.act .step = .next ({ core := t, phase := .stepped }, .stepResult r) ∧
      (r = none ↔ t.status = .running) ∧ (∀ f, r = some f ↔ t.status = .faulted f)

/-- 70_reset_and_hazards.md R299, 60_exceptions.md R271: after `m` ticks a timer holds its value minus `m`, stopping at 0. -/
def Obligations.TimersStopAtZero : Prop :=
  ∀ (m : Nat) (s : State), (tickTimers^[m] s).dt.toNat = s.dt.toNat - m ∧ (tickTimers^[m] s).st.toNat = s.st.toNat - m

/-! ### The whole machine -/

/-- 10_state.md R29: "no instruction and no host operation changes it". -/
def Obligations.CompatNeverChanges : Prop :=
  ∀ (σ σ' : Session) (a : HostAction) (r : HostAnswer), σ.act a = .next (σ', r) → σ'.core.compat = σ.core.compat

/-- 10_state.md R35: only `set_key` writes the keypad, no step and no other host action. -/
def Obligations.OnlySetKeyWritesTheKeypad : Prop :=
  ∀ (σ σ' : Session) (a : HostAction) (r : HostAnswer), σ.act a = .next (σ', r) →
    (∀ index pressed, a ≠ .setKey index pressed) → σ'.core.key = σ.core.key

/-- 10_state.md R24, R28, R31, R32, R34, R36, 20_memory.md R56: over all instructions, nothing is written but pc and what the
table `mayWrite` gives the instruction. -/
def Obligations.EachInstructionWritesOnlyItsOwn : Prop :=
  ∀ (i : Instr) (s t : State), exec i s = .next t → FrameExcept (fun c => c = .pc ∨ mayWrite i s c) s t

/-- 10_state.md R26: pc after a completed step, for every instruction fetched inside memory. -/
def Obligations.PcAfterACompletedStep : Prop :=
  ∀ (i : Instr) (s t : State), s.status = .running → s.pc.toNat + 1 < 4096 → exec i s = .next t →
    t.status = .running → t.pc.toNat = pcAfter i s

/-- 40_cycle.md R128, 10_state.md R35: "A step reads key only through the key instructions": for every other instruction the keypad makes no
difference. It compares two runs: for Random the next states agree because both take the draw of the same counter from one
sequence, the model's choice (log entry 3). -/
def Obligations.OnlyKeyInstructionsReadTheKeypad : Prop :=
  ∀ (i : Instr) (s t : State) (key : Vector Bool 16),
    (∀ x, i ≠ .keyPressed x ∧ i ≠ .keyNotPressed x ∧ i ≠ .waitForKey x) → exec i s = .next t →
    exec i { s with key := key } = .next { t with key := key }

/-- 10_state.md R34: "No instruction reads ST": with another value of ST the next state is the same but for ST, and after
SetBuzzer it is the same whole. It compares two runs: for Random the next states agree because both take the draw of the same
counter from one sequence, the model's choice (log entry 3). -/
def Obligations.NoInstructionReadsTheSoundTimer : Prop :=
  ∀ (i : Instr) (s t : State) (b : Byte), exec i s = .next t →
    ∃ u, exec i { s with st := b } = .next u ∧ { u with st := t.st } = t ∧
      ((∀ x, i ≠ .setBuzzer x) → u.st = b) ∧ ((∃ x, i = .setBuzzer x) → u = t)

/-- 10_state.md R29: only RightShift, LeftShift and RelJump read the compatibility mode. It compares two runs: for Random the
next states agree because both take the draw of the same counter from one sequence, the model's choice (log entry 3). -/
def Obligations.OnlyShiftsAndRelJumpReadCompat : Prop :=
  ∀ (i : Instr) (s t : State) (mode : Compat),
    (∀ x y nnn, i ≠ .rightShift x y ∧ i ≠ .leftShift x y ∧ i ≠ .relJump nnn) → exec i s = .next t →
    exec i { s with compat := mode } = .next { t with compat := mode }
end

