-- ==== Sys2Proof/Laws/Encoding.lean ====
section
/-! SUPPORT. The fields of a word laid out in each format, and a word from its fields: what the round trips of the decoder and
the encoder rest on. -/

namespace Sys2Proof

theorem opField_toNat (w : Word) : (opField w).toNat = w.toNat / 4096 := by
  have := w.isLt
  simp only [opField, BitVec.extractLsb'_toNat, Nat.shiftRight_eq_div_pow]
  omega

theorem xField_toNat (w : Word) : (xField w).toNat = w.toNat / 256 % 16 := by
  simp [xField, BitVec.extractLsb'_toNat, Nat.shiftRight_eq_div_pow]

theorem yField_toNat (w : Word) : (yField w).toNat = w.toNat / 16 % 16 := by
  simp [yField, BitVec.extractLsb'_toNat, Nat.shiftRight_eq_div_pow]

theorem nField_toNat (w : Word) : (nField w).toNat = w.toNat % 16 := by
  simp [nField, BitVec.extractLsb'_toNat]

theorem nnField_toNat (w : Word) : (nnField w).toNat = w.toNat % 256 := by
  simp [nnField, BitVec.extractLsb'_toNat]

theorem nnnField_toNat (w : Word) : (nnnField w).toNat = w.toNat % 4096 := by
  simp [nnnField, BitVec.extractLsb'_toNat]

theorem append_toNat {m n : Nat} (a : BitVec m) (b : BitVec n) : (a ++ b).toNat = a.toNat * 2 ^ n + b.toNat := by
  rw [BitVec.toNat_append, Nat.shiftLeft_eq, ← Nat.shiftLeft_eq, Nat.shiftLeft_add_eq_or_of_lt b.isLt]

theorem wordXYN_toNat (op x y n : Nibble) :
    (wordXYN op x y n).toNat = op.toNat * 4096 + x.toNat * 256 + y.toNat * 16 + n.toNat := by
  have : (wordXYN op x y n).toNat = (op ++ x ++ y ++ n).toNat := rfl
  rw [this, append_toNat, append_toNat, append_toNat]
  ring

theorem wordXNN_toNat (op x : Nibble) (nn : Byte) :
    (wordXNN op x nn).toNat = op.toNat * 4096 + x.toNat * 256 + nn.toNat := by
  have : (wordXNN op x nn).toNat = (op ++ x ++ nn).toNat := rfl
  rw [this, append_toNat, append_toNat]
  ring

theorem wordNNN_toNat (op : Nibble) (nnn : Imm12) : (wordNNN op nnn).toNat = op.toNat * 4096 + nnn.toNat := by
  have : (wordNNN op nnn).toNat = (op ++ nnn).toNat := rfl
  rw [this, append_toNat]; norm_num

section
variable (op x y n : Nibble) (nn : Byte) (nnn : Imm12)

@[simp] theorem opField_wordXYN : opField (wordXYN op x y n) = op := by
  apply BitVec.eq_of_toNat_eq; rw [opField_toNat, wordXYN_toNat]; omega

@[simp] theorem xField_wordXYN : xField (wordXYN op x y n) = x := by
  apply BitVec.eq_of_toNat_eq; rw [xField_toNat, wordXYN_toNat]; omega

@[simp] theorem yField_wordXYN : yField (wordXYN op x y n) = y := by
  apply BitVec.eq_of_toNat_eq; rw [yField_toNat, wordXYN_toNat]; omega

@[simp] theorem nField_wordXYN : nField (wordXYN op x y n) = n := by
  apply BitVec.eq_of_toNat_eq; rw [nField_toNat, wordXYN_toNat]; omega

@[simp] theorem opField_wordXNN : opField (wordXNN op x nn) = op := by
  apply BitVec.eq_of_toNat_eq; rw [opField_toNat, wordXNN_toNat]; omega

@[simp] theorem xField_wordXNN : xField (wordXNN op x nn) = x := by
  apply BitVec.eq_of_toNat_eq; rw [xField_toNat, wordXNN_toNat]; omega

@[simp] theorem nnField_wordXNN : nnField (wordXNN op x nn) = nn := by
  apply BitVec.eq_of_toNat_eq; rw [nnField_toNat, wordXNN_toNat]; omega

@[simp] theorem opField_wordNNN : opField (wordNNN op nnn) = op := by
  apply BitVec.eq_of_toNat_eq; rw [opField_toNat, wordNNN_toNat]; omega

@[simp] theorem nnnField_wordNNN : nnnField (wordNNN op nnn) = nnn := by
  apply BitVec.eq_of_toNat_eq; rw [nnnField_toNat, wordNNN_toNat]; omega

end

/-- A word is its four nibbles. -/
theorem wordXYN_fields (w : Word) : wordXYN (opField w) (xField w) (yField w) (nField w) = w := by
  apply BitVec.eq_of_toNat_eq
  rw [wordXYN_toNat, opField_toNat, xField_toNat, yField_toNat, nField_toNat]
  omega

/-- A word is its family, its x and its last byte. -/
theorem wordXNN_fields (w : Word) : wordXNN (opField w) (xField w) (nnField w) = w := by
  apply BitVec.eq_of_toNat_eq
  rw [wordXNN_toNat, opField_toNat, xField_toNat, nnField_toNat]
  omega

/-- A word is its family and its 12-bit immediate. -/
theorem wordNNN_fields (w : Word) : wordNNN (opField w) (nnnField w) = w := by
  apply BitVec.eq_of_toNat_eq
  rw [wordNNN_toNat, opField_toNat, nnnField_toNat]
  omega

end Sys2Proof
end

