-- ==== Sys2Proof/Laws/Decoding.lean ====
section
/-! SUPPORT. The decoder family by family: one equation for each first-level arm and for each second-level instruction. -/

namespace Sys2Proof

/-! ### The first level of the decoder, family by family (30_encoding.md R84) -/

section
variable {w : Word}

theorem decode_family0 (h : opField w = 0x0) : decode w = decodeFixed w := by rw [decode, h]; rfl

theorem decode_family1 (h : opField w = 0x1) : decode w = .ok (.jump (nnnField w)) := by rw [decode, h]; rfl

theorem decode_family2 (h : opField w = 0x2) : decode w = .ok (.call (nnnField w)) := by rw [decode, h]; rfl

theorem decode_family3 (h : opField w = 0x3) : decode w = .ok (.skipImmEq (xField w) (nnField w)) := by rw [decode, h]; rfl

theorem decode_family4 (h : opField w = 0x4) : decode w = .ok (.skipImmNe (xField w) (nnField w)) := by rw [decode, h]; rfl

theorem decode_family5 (h : opField w = 0x5) : decode w = decodeSkipReg (.skipRegEq (xField w) (yField w)) w := by rw [decode, h]; rfl

theorem decode_family6 (h : opField w = 0x6) : decode w = .ok (.regAssign (xField w) (nnField w)) := by rw [decode, h]; rfl

theorem decode_family7 (h : opField w = 0x7) : decode w = .ok (.regIncr (xField w) (nnField w)) := by rw [decode, h]; rfl

theorem decode_family8 (h : opField w = 0x8) : decode w = decodeMath w := by rw [decode, h]; rfl

theorem decode_family9 (h : opField w = 0x9) : decode w = decodeSkipReg (.skipRegNe (xField w) (yField w)) w := by rw [decode, h]; rfl

theorem decode_familyA (h : opField w = 0xA) : decode w = .ok (.setIndex (nnnField w)) := by rw [decode, h]; rfl

theorem decode_familyB (h : opField w = 0xB) : decode w = .ok (.relJump (nnnField w)) := by rw [decode, h]; rfl

theorem decode_familyC (h : opField w = 0xC) : decode w = .ok (.random (xField w) (nnField w)) := by rw [decode, h]; rfl

theorem decode_familyD (h : opField w = 0xD) : decode w = .ok (.draw (xField w) (yField w) (nField w)) := by rw [decode, h]; rfl

theorem decode_familyE (h : opField w = 0xE) : decode w = decodeKey w := by rw [decode, h]; rfl

theorem decode_familyF (h : opField w = 0xF) : decode w = decodeExtra w := by rw [decode, h]; rfl

end

/-! ### The second level (30_encoding.md R83, R85 to R87) -/

theorem decodeSkipReg_wordXYN (i : Instr) (op x y : Nibble) : decodeSkipReg i (wordXYN op x y 0x0) = .ok i := by
  rw [decodeSkipReg, nField_wordXYN]; rfl

theorem decodeMath_assign (op x y : Nibble) : decodeMath (wordXYN op x y 0x0) = .ok (.assign x y) := by
  rw [decodeMath, nField_wordXYN, xField_wordXYN, yField_wordXYN]; rfl

theorem decodeMath_or (op x y : Nibble) : decodeMath (wordXYN op x y 0x1) = .ok (.or x y) := by
  rw [decodeMath, nField_wordXYN, xField_wordXYN, yField_wordXYN]; rfl

theorem decodeMath_and (op x y : Nibble) : decodeMath (wordXYN op x y 0x2) = .ok (.and x y) := by
  rw [decodeMath, nField_wordXYN, xField_wordXYN, yField_wordXYN]; rfl

theorem decodeMath_xor (op x y : Nibble) : decodeMath (wordXYN op x y 0x3) = .ok (.xor x y) := by
  rw [decodeMath, nField_wordXYN, xField_wordXYN, yField_wordXYN]; rfl

theorem decodeMath_incrBy (op x y : Nibble) : decodeMath (wordXYN op x y 0x4) = .ok (.incrBy x y) := by
  rw [decodeMath, nField_wordXYN, xField_wordXYN, yField_wordXYN]; rfl

theorem decodeMath_decrBy (op x y : Nibble) : decodeMath (wordXYN op x y 0x5) = .ok (.decrBy x y) := by
  rw [decodeMath, nField_wordXYN, xField_wordXYN, yField_wordXYN]; rfl

theorem decodeMath_rightShift (op x y : Nibble) : decodeMath (wordXYN op x y 0x6) = .ok (.rightShift x y) := by
  rw [decodeMath, nField_wordXYN, xField_wordXYN, yField_wordXYN]; rfl

theorem decodeMath_invDecrBy (op x y : Nibble) : decodeMath (wordXYN op x y 0x7) = .ok (.invDecrBy x y) := by
  rw [decodeMath, nField_wordXYN, xField_wordXYN, yField_wordXYN]; rfl

theorem decodeMath_leftShift (op x y : Nibble) : decodeMath (wordXYN op x y 0xE) = .ok (.leftShift x y) := by
  rw [decodeMath, nField_wordXYN, xField_wordXYN, yField_wordXYN]; rfl

theorem decodeKey_keyPressed (op x : Nibble) : decodeKey (wordXNN op x 0x9E) = .ok (.keyPressed x) := by
  rw [decodeKey, nnField_wordXNN, xField_wordXNN]; rfl

theorem decodeKey_keyNotPressed (op x : Nibble) : decodeKey (wordXNN op x 0xA1) = .ok (.keyNotPressed x) := by
  rw [decodeKey, nnField_wordXNN, xField_wordXNN]; rfl

theorem decodeExtra_checkDelay (op x : Nibble) : decodeExtra (wordXNN op x 0x07) = .ok (.checkDelay x) := by
  rw [decodeExtra, nnField_wordXNN, xField_wordXNN]; rfl

theorem decodeExtra_waitForKey (op x : Nibble) : decodeExtra (wordXNN op x 0x0A) = .ok (.waitForKey x) := by
  rw [decodeExtra, nnField_wordXNN, xField_wordXNN]; rfl

theorem decodeExtra_setDelay (op x : Nibble) : decodeExtra (wordXNN op x 0x15) = .ok (.setDelay x) := by
  rw [decodeExtra, nnField_wordXNN, xField_wordXNN]; rfl

theorem decodeExtra_setBuzzer (op x : Nibble) : decodeExtra (wordXNN op x 0x18) = .ok (.setBuzzer x) := by
  rw [decodeExtra, nnField_wordXNN, xField_wordXNN]; rfl

theorem decodeExtra_incrIndex (op x : Nibble) : decodeExtra (wordXNN op x 0x1E) = .ok (.incrIndex x) := by
  rw [decodeExtra, nnField_wordXNN, xField_wordXNN]; rfl

theorem decodeExtra_setIndexHex (op x : Nibble) : decodeExtra (wordXNN op x 0x29) = .ok (.setIndexHex x) := by
  rw [decodeExtra, nnField_wordXNN, xField_wordXNN]; rfl

theorem decodeExtra_bcdReg (op x : Nibble) : decodeExtra (wordXNN op x 0x33) = .ok (.bcdReg x) := by
  rw [decodeExtra, nnField_wordXNN, xField_wordXNN]; rfl

theorem decodeExtra_saveRegRange (op x : Nibble) : decodeExtra (wordXNN op x 0x55) = .ok (.saveRegRange x) := by
  rw [decodeExtra, nnField_wordXNN, xField_wordXNN]; rfl

theorem decodeExtra_loadRegRange (op x : Nibble) : decodeExtra (wordXNN op x 0x65) = .ok (.loadRegRange x) := by
  rw [decodeExtra, nnField_wordXNN, xField_wordXNN]; rfl


end Sys2Proof
end

