-- ==== Sys2Proof/Laws/State.lean ====
section
/-! SUPPORT. One lemma per field and per reader of the state for every update, each true by rfl, so that no later proof unfolds
a record update; and what a register, key or memory update leaves in its own field. -/

namespace Sys2Proof.Machine

/-! ### `setReg` -/

@[simp] theorem State.setReg_i (s : State) (x : Nibble) (b : Byte) : (s.setReg x b).i = s.i := rfl
@[simp] theorem State.setReg_pc (s : State) (x : Nibble) (b : Byte) : (s.setReg x b).pc = s.pc := rfl
@[simp] theorem State.setReg_stack (s : State) (x : Nibble) (b : Byte) : (s.setReg x b).stack = s.stack := rfl
@[simp] theorem State.setReg_mem (s : State) (x : Nibble) (b : Byte) : (s.setReg x b).mem = s.mem := rfl
@[simp] theorem State.setReg_dt (s : State) (x : Nibble) (b : Byte) : (s.setReg x b).dt = s.dt := rfl
@[simp] theorem State.setReg_st (s : State) (x : Nibble) (b : Byte) : (s.setReg x b).st = s.st := rfl
@[simp] theorem State.setReg_key (s : State) (x : Nibble) (b : Byte) : (s.setReg x b).key = s.key := rfl
@[simp] theorem State.setReg_fb (s : State) (x : Nibble) (b : Byte) : (s.setReg x b).fb = s.fb := rfl
@[simp] theorem State.setReg_compat (s : State) (x : Nibble) (b : Byte) : (s.setReg x b).compat = s.compat := rfl
@[simp] theorem State.setReg_status (s : State) (x : Nibble) (b : Byte) : (s.setReg x b).status = s.status := rfl
@[simp] theorem State.setReg_draws (s : State) (x : Nibble) (b : Byte) : (s.setReg x b).draws = s.draws := rfl
@[simp] theorem State.setReg_byte (s : State) (x : Nibble) (b : Byte) (a : Nat) : (s.setReg x b).byte a = s.byte a := rfl
@[simp] theorem State.setReg_keyDown (s : State) (x : Nibble) (b : Byte) (k : Nibble) : (s.setReg x b).keyDown k = s.keyDown k := rfl
@[simp] theorem State.setReg_pixel (s : State) (x : Nibble) (b : Byte) (px py : Nat) : (s.setReg x b).pixel px py = s.pixel px py := rfl

/-! ### `setIndex` -/

@[simp] theorem State.setIndex_v (s : State) (w : Word) : (s.setIndex w).v = s.v := rfl
@[simp] theorem State.setIndex_i (s : State) (w : Word) : (s.setIndex w).i = w := rfl
@[simp] theorem State.setIndex_pc (s : State) (w : Word) : (s.setIndex w).pc = s.pc := rfl
@[simp] theorem State.setIndex_stack (s : State) (w : Word) : (s.setIndex w).stack = s.stack := rfl
@[simp] theorem State.setIndex_mem (s : State) (w : Word) : (s.setIndex w).mem = s.mem := rfl
@[simp] theorem State.setIndex_dt (s : State) (w : Word) : (s.setIndex w).dt = s.dt := rfl
@[simp] theorem State.setIndex_st (s : State) (w : Word) : (s.setIndex w).st = s.st := rfl
@[simp] theorem State.setIndex_key (s : State) (w : Word) : (s.setIndex w).key = s.key := rfl
@[simp] theorem State.setIndex_fb (s : State) (w : Word) : (s.setIndex w).fb = s.fb := rfl
@[simp] theorem State.setIndex_compat (s : State) (w : Word) : (s.setIndex w).compat = s.compat := rfl
@[simp] theorem State.setIndex_status (s : State) (w : Word) : (s.setIndex w).status = s.status := rfl
@[simp] theorem State.setIndex_draws (s : State) (w : Word) : (s.setIndex w).draws = s.draws := rfl
@[simp] theorem State.setIndex_reg (s : State) (w : Word) (r : Nibble) : (s.setIndex w).reg r = s.reg r := rfl
@[simp] theorem State.setIndex_byte (s : State) (w : Word) (a : Nat) : (s.setIndex w).byte a = s.byte a := rfl
@[simp] theorem State.setIndex_keyDown (s : State) (w : Word) (k : Nibble) : (s.setIndex w).keyDown k = s.keyDown k := rfl
@[simp] theorem State.setIndex_pixel (s : State) (w : Word) (x y : Nat) : (s.setIndex w).pixel x y = s.pixel x y := rfl

/-! ### `setPc` -/

@[simp] theorem State.setPc_v (s : State) (w : Word) : (s.setPc w).v = s.v := rfl
@[simp] theorem State.setPc_i (s : State) (w : Word) : (s.setPc w).i = s.i := rfl
@[simp] theorem State.setPc_pc (s : State) (w : Word) : (s.setPc w).pc = w := rfl
@[simp] theorem State.setPc_stack (s : State) (w : Word) : (s.setPc w).stack = s.stack := rfl
@[simp] theorem State.setPc_mem (s : State) (w : Word) : (s.setPc w).mem = s.mem := rfl
@[simp] theorem State.setPc_dt (s : State) (w : Word) : (s.setPc w).dt = s.dt := rfl
@[simp] theorem State.setPc_st (s : State) (w : Word) : (s.setPc w).st = s.st := rfl
@[simp] theorem State.setPc_key (s : State) (w : Word) : (s.setPc w).key = s.key := rfl
@[simp] theorem State.setPc_fb (s : State) (w : Word) : (s.setPc w).fb = s.fb := rfl
@[simp] theorem State.setPc_compat (s : State) (w : Word) : (s.setPc w).compat = s.compat := rfl
@[simp] theorem State.setPc_status (s : State) (w : Word) : (s.setPc w).status = s.status := rfl
@[simp] theorem State.setPc_draws (s : State) (w : Word) : (s.setPc w).draws = s.draws := rfl
@[simp] theorem State.setPc_reg (s : State) (w : Word) (r : Nibble) : (s.setPc w).reg r = s.reg r := rfl
@[simp] theorem State.setPc_byte (s : State) (w : Word) (a : Nat) : (s.setPc w).byte a = s.byte a := rfl
@[simp] theorem State.setPc_keyDown (s : State) (w : Word) (k : Nibble) : (s.setPc w).keyDown k = s.keyDown k := rfl
@[simp] theorem State.setPc_pixel (s : State) (w : Word) (x y : Nat) : (s.setPc w).pixel x y = s.pixel x y := rfl

/-! ### `setStack` -/

@[simp] theorem State.setStack_v (s : State) (l : List Word) : (s.setStack l).v = s.v := rfl
@[simp] theorem State.setStack_i (s : State) (l : List Word) : (s.setStack l).i = s.i := rfl
@[simp] theorem State.setStack_pc (s : State) (l : List Word) : (s.setStack l).pc = s.pc := rfl
@[simp] theorem State.setStack_stack (s : State) (l : List Word) : (s.setStack l).stack = l := rfl
@[simp] theorem State.setStack_mem (s : State) (l : List Word) : (s.setStack l).mem = s.mem := rfl
@[simp] theorem State.setStack_dt (s : State) (l : List Word) : (s.setStack l).dt = s.dt := rfl
@[simp] theorem State.setStack_st (s : State) (l : List Word) : (s.setStack l).st = s.st := rfl
@[simp] theorem State.setStack_key (s : State) (l : List Word) : (s.setStack l).key = s.key := rfl
@[simp] theorem State.setStack_fb (s : State) (l : List Word) : (s.setStack l).fb = s.fb := rfl
@[simp] theorem State.setStack_compat (s : State) (l : List Word) : (s.setStack l).compat = s.compat := rfl
@[simp] theorem State.setStack_status (s : State) (l : List Word) : (s.setStack l).status = s.status := rfl
@[simp] theorem State.setStack_draws (s : State) (l : List Word) : (s.setStack l).draws = s.draws := rfl
@[simp] theorem State.setStack_reg (s : State) (l : List Word) (r : Nibble) : (s.setStack l).reg r = s.reg r := rfl
@[simp] theorem State.setStack_byte (s : State) (l : List Word) (a : Nat) : (s.setStack l).byte a = s.byte a := rfl
@[simp] theorem State.setStack_keyDown (s : State) (l : List Word) (k : Nibble) : (s.setStack l).keyDown k = s.keyDown k := rfl
@[simp] theorem State.setStack_pixel (s : State) (l : List Word) (x y : Nat) : (s.setStack l).pixel x y = s.pixel x y := rfl

/-! ### `setMem` -/

@[simp] theorem State.setMem_v (s : State) (m : Memory) : (s.setMem m).v = s.v := rfl
@[simp] theorem State.setMem_i (s : State) (m : Memory) : (s.setMem m).i = s.i := rfl
@[simp] theorem State.setMem_pc (s : State) (m : Memory) : (s.setMem m).pc = s.pc := rfl
@[simp] theorem State.setMem_stack (s : State) (m : Memory) : (s.setMem m).stack = s.stack := rfl
@[simp] theorem State.setMem_mem (s : State) (m : Memory) : (s.setMem m).mem = m := rfl
@[simp] theorem State.setMem_dt (s : State) (m : Memory) : (s.setMem m).dt = s.dt := rfl
@[simp] theorem State.setMem_st (s : State) (m : Memory) : (s.setMem m).st = s.st := rfl
@[simp] theorem State.setMem_key (s : State) (m : Memory) : (s.setMem m).key = s.key := rfl
@[simp] theorem State.setMem_fb (s : State) (m : Memory) : (s.setMem m).fb = s.fb := rfl
@[simp] theorem State.setMem_compat (s : State) (m : Memory) : (s.setMem m).compat = s.compat := rfl
@[simp] theorem State.setMem_status (s : State) (m : Memory) : (s.setMem m).status = s.status := rfl
@[simp] theorem State.setMem_draws (s : State) (m : Memory) : (s.setMem m).draws = s.draws := rfl
@[simp] theorem State.setMem_reg (s : State) (m : Memory) (r : Nibble) : (s.setMem m).reg r = s.reg r := rfl
@[simp] theorem State.setMem_keyDown (s : State) (m : Memory) (k : Nibble) : (s.setMem m).keyDown k = s.keyDown k := rfl
@[simp] theorem State.setMem_pixel (s : State) (m : Memory) (x y : Nat) : (s.setMem m).pixel x y = s.pixel x y := rfl

/-! ### `setDelay` -/

@[simp] theorem State.setDelay_v (s : State) (b : Byte) : (s.setDelay b).v = s.v := rfl
@[simp] theorem State.setDelay_i (s : State) (b : Byte) : (s.setDelay b).i = s.i := rfl
@[simp] theorem State.setDelay_pc (s : State) (b : Byte) : (s.setDelay b).pc = s.pc := rfl
@[simp] theorem State.setDelay_stack (s : State) (b : Byte) : (s.setDelay b).stack = s.stack := rfl
@[simp] theorem State.setDelay_mem (s : State) (b : Byte) : (s.setDelay b).mem = s.mem := rfl
@[simp] theorem State.setDelay_dt (s : State) (b : Byte) : (s.setDelay b).dt = b := rfl
@[simp] theorem State.setDelay_st (s : State) (b : Byte) : (s.setDelay b).st = s.st := rfl
@[simp] theorem State.setDelay_key (s : State) (b : Byte) : (s.setDelay b).key = s.key := rfl
@[simp] theorem State.setDelay_fb (s : State) (b : Byte) : (s.setDelay b).fb = s.fb := rfl
@[simp] theorem State.setDelay_compat (s : State) (b : Byte) : (s.setDelay b).compat = s.compat := rfl
@[simp] theorem State.setDelay_status (s : State) (b : Byte) : (s.setDelay b).status = s.status := rfl
@[simp] theorem State.setDelay_draws (s : State) (b : Byte) : (s.setDelay b).draws = s.draws := rfl
@[simp] theorem State.setDelay_reg (s : State) (b : Byte) (r : Nibble) : (s.setDelay b).reg r = s.reg r := rfl
@[simp] theorem State.setDelay_byte (s : State) (b : Byte) (a : Nat) : (s.setDelay b).byte a = s.byte a := rfl
@[simp] theorem State.setDelay_keyDown (s : State) (b : Byte) (k : Nibble) : (s.setDelay b).keyDown k = s.keyDown k := rfl
@[simp] theorem State.setDelay_pixel (s : State) (b : Byte) (x y : Nat) : (s.setDelay b).pixel x y = s.pixel x y := rfl

/-! ### `setSound` -/

@[simp] theorem State.setSound_v (s : State) (b : Byte) : (s.setSound b).v = s.v := rfl
@[simp] theorem State.setSound_i (s : State) (b : Byte) : (s.setSound b).i = s.i := rfl
@[simp] theorem State.setSound_pc (s : State) (b : Byte) : (s.setSound b).pc = s.pc := rfl
@[simp] theorem State.setSound_stack (s : State) (b : Byte) : (s.setSound b).stack = s.stack := rfl
@[simp] theorem State.setSound_mem (s : State) (b : Byte) : (s.setSound b).mem = s.mem := rfl
@[simp] theorem State.setSound_dt (s : State) (b : Byte) : (s.setSound b).dt = s.dt := rfl
@[simp] theorem State.setSound_st (s : State) (b : Byte) : (s.setSound b).st = b := rfl
@[simp] theorem State.setSound_key (s : State) (b : Byte) : (s.setSound b).key = s.key := rfl
@[simp] theorem State.setSound_fb (s : State) (b : Byte) : (s.setSound b).fb = s.fb := rfl
@[simp] theorem State.setSound_compat (s : State) (b : Byte) : (s.setSound b).compat = s.compat := rfl
@[simp] theorem State.setSound_status (s : State) (b : Byte) : (s.setSound b).status = s.status := rfl
@[simp] theorem State.setSound_draws (s : State) (b : Byte) : (s.setSound b).draws = s.draws := rfl
@[simp] theorem State.setSound_reg (s : State) (b : Byte) (r : Nibble) : (s.setSound b).reg r = s.reg r := rfl
@[simp] theorem State.setSound_byte (s : State) (b : Byte) (a : Nat) : (s.setSound b).byte a = s.byte a := rfl
@[simp] theorem State.setSound_keyDown (s : State) (b : Byte) (k : Nibble) : (s.setSound b).keyDown k = s.keyDown k := rfl
@[simp] theorem State.setSound_pixel (s : State) (b : Byte) (x y : Nat) : (s.setSound b).pixel x y = s.pixel x y := rfl

/-! ### `setKeyDown` -/

@[simp] theorem State.setKeyDown_v (s : State) (j : Nibble) (p : Bool) : (s.setKeyDown j p).v = s.v := rfl
@[simp] theorem State.setKeyDown_i (s : State) (j : Nibble) (p : Bool) : (s.setKeyDown j p).i = s.i := rfl
@[simp] theorem State.setKeyDown_pc (s : State) (j : Nibble) (p : Bool) : (s.setKeyDown j p).pc = s.pc := rfl
@[simp] theorem State.setKeyDown_stack (s : State) (j : Nibble) (p : Bool) : (s.setKeyDown j p).stack = s.stack := rfl
@[simp] theorem State.setKeyDown_mem (s : State) (j : Nibble) (p : Bool) : (s.setKeyDown j p).mem = s.mem := rfl
@[simp] theorem State.setKeyDown_dt (s : State) (j : Nibble) (p : Bool) : (s.setKeyDown j p).dt = s.dt := rfl
@[simp] theorem State.setKeyDown_st (s : State) (j : Nibble) (p : Bool) : (s.setKeyDown j p).st = s.st := rfl
@[simp] theorem State.setKeyDown_fb (s : State) (j : Nibble) (p : Bool) : (s.setKeyDown j p).fb = s.fb := rfl
@[simp] theorem State.setKeyDown_compat (s : State) (j : Nibble) (p : Bool) : (s.setKeyDown j p).compat = s.compat := rfl
@[simp] theorem State.setKeyDown_status (s : State) (j : Nibble) (p : Bool) : (s.setKeyDown j p).status = s.status := rfl
@[simp] theorem State.setKeyDown_draws (s : State) (j : Nibble) (p : Bool) : (s.setKeyDown j p).draws = s.draws := rfl
@[simp] theorem State.setKeyDown_reg (s : State) (j : Nibble) (p : Bool) (r : Nibble) : (s.setKeyDown j p).reg r = s.reg r := rfl
@[simp] theorem State.setKeyDown_byte (s : State) (j : Nibble) (p : Bool) (a : Nat) : (s.setKeyDown j p).byte a = s.byte a := rfl
@[simp] theorem State.setKeyDown_pixel (s : State) (j : Nibble) (p : Bool) (x y : Nat) : (s.setKeyDown j p).pixel x y = s.pixel x y := rfl

/-! ### `setFb` -/

@[simp] theorem State.setFb_v (s : State) (g : Framebuffer) : (s.setFb g).v = s.v := rfl
@[simp] theorem State.setFb_i (s : State) (g : Framebuffer) : (s.setFb g).i = s.i := rfl
@[simp] theorem State.setFb_pc (s : State) (g : Framebuffer) : (s.setFb g).pc = s.pc := rfl
@[simp] theorem State.setFb_stack (s : State) (g : Framebuffer) : (s.setFb g).stack = s.stack := rfl
@[simp] theorem State.setFb_mem (s : State) (g : Framebuffer) : (s.setFb g).mem = s.mem := rfl
@[simp] theorem State.setFb_dt (s : State) (g : Framebuffer) : (s.setFb g).dt = s.dt := rfl
@[simp] theorem State.setFb_st (s : State) (g : Framebuffer) : (s.setFb g).st = s.st := rfl
@[simp] theorem State.setFb_key (s : State) (g : Framebuffer) : (s.setFb g).key = s.key := rfl
@[simp] theorem State.setFb_fb (s : State) (g : Framebuffer) : (s.setFb g).fb = g := rfl
@[simp] theorem State.setFb_compat (s : State) (g : Framebuffer) : (s.setFb g).compat = s.compat := rfl
@[simp] theorem State.setFb_status (s : State) (g : Framebuffer) : (s.setFb g).status = s.status := rfl
@[simp] theorem State.setFb_draws (s : State) (g : Framebuffer) : (s.setFb g).draws = s.draws := rfl
@[simp] theorem State.setFb_reg (s : State) (g : Framebuffer) (r : Nibble) : (s.setFb g).reg r = s.reg r := rfl
@[simp] theorem State.setFb_byte (s : State) (g : Framebuffer) (a : Nat) : (s.setFb g).byte a = s.byte a := rfl
@[simp] theorem State.setFb_keyDown (s : State) (g : Framebuffer) (k : Nibble) : (s.setFb g).keyDown k = s.keyDown k := rfl

/-! ### `setStatus` -/

@[simp] theorem State.setStatus_v (s : State) (c : Status) : (s.setStatus c).v = s.v := rfl
@[simp] theorem State.setStatus_i (s : State) (c : Status) : (s.setStatus c).i = s.i := rfl
@[simp] theorem State.setStatus_pc (s : State) (c : Status) : (s.setStatus c).pc = s.pc := rfl
@[simp] theorem State.setStatus_stack (s : State) (c : Status) : (s.setStatus c).stack = s.stack := rfl
@[simp] theorem State.setStatus_mem (s : State) (c : Status) : (s.setStatus c).mem = s.mem := rfl
@[simp] theorem State.setStatus_dt (s : State) (c : Status) : (s.setStatus c).dt = s.dt := rfl
@[simp] theorem State.setStatus_st (s : State) (c : Status) : (s.setStatus c).st = s.st := rfl
@[simp] theorem State.setStatus_key (s : State) (c : Status) : (s.setStatus c).key = s.key := rfl
@[simp] theorem State.setStatus_fb (s : State) (c : Status) : (s.setStatus c).fb = s.fb := rfl
@[simp] theorem State.setStatus_compat (s : State) (c : Status) : (s.setStatus c).compat = s.compat := rfl
@[simp] theorem State.setStatus_status (s : State) (c : Status) : (s.setStatus c).status = c := rfl
@[simp] theorem State.setStatus_draws (s : State) (c : Status) : (s.setStatus c).draws = s.draws := rfl
@[simp] theorem State.setStatus_reg (s : State) (c : Status) (r : Nibble) : (s.setStatus c).reg r = s.reg r := rfl
@[simp] theorem State.setStatus_byte (s : State) (c : Status) (a : Nat) : (s.setStatus c).byte a = s.byte a := rfl
@[simp] theorem State.setStatus_keyDown (s : State) (c : Status) (k : Nibble) : (s.setStatus c).keyDown k = s.keyDown k := rfl
@[simp] theorem State.setStatus_pixel (s : State) (c : Status) (x y : Nat) : (s.setStatus c).pixel x y = s.pixel x y := rfl

/-! ### `countDraw` -/

@[simp] theorem State.countDraw_v (s : State) : (s.countDraw).v = s.v := rfl
@[simp] theorem State.countDraw_i (s : State) : (s.countDraw).i = s.i := rfl
@[simp] theorem State.countDraw_pc (s : State) : (s.countDraw).pc = s.pc := rfl
@[simp] theorem State.countDraw_stack (s : State) : (s.countDraw).stack = s.stack := rfl
@[simp] theorem State.countDraw_mem (s : State) : (s.countDraw).mem = s.mem := rfl
@[simp] theorem State.countDraw_dt (s : State) : (s.countDraw).dt = s.dt := rfl
@[simp] theorem State.countDraw_st (s : State) : (s.countDraw).st = s.st := rfl
@[simp] theorem State.countDraw_key (s : State) : (s.countDraw).key = s.key := rfl
@[simp] theorem State.countDraw_fb (s : State) : (s.countDraw).fb = s.fb := rfl
@[simp] theorem State.countDraw_compat (s : State) : (s.countDraw).compat = s.compat := rfl
@[simp] theorem State.countDraw_status (s : State) : (s.countDraw).status = s.status := rfl
@[simp] theorem State.countDraw_draws (s : State) : (s.countDraw).draws = s.draws + 1 := rfl
@[simp] theorem State.countDraw_reg (s : State) (r : Nibble) : (s.countDraw).reg r = s.reg r := rfl
@[simp] theorem State.countDraw_byte (s : State) (a : Nat) : (s.countDraw).byte a = s.byte a := rfl
@[simp] theorem State.countDraw_keyDown (s : State) (k : Nibble) : (s.countDraw).keyDown k = s.keyDown k := rfl
@[simp] theorem State.countDraw_pixel (s : State) (x y : Nat) : (s.countDraw).pixel x y = s.pixel x y := rfl

/-! ### `withFault` -/

@[simp] theorem State.withFault_v (s : State) (f : Fault) : (s.withFault f).v = s.v := rfl
@[simp] theorem State.withFault_i (s : State) (f : Fault) : (s.withFault f).i = s.i := rfl
@[simp] theorem State.withFault_pc (s : State) (f : Fault) : (s.withFault f).pc = s.pc := rfl
@[simp] theorem State.withFault_stack (s : State) (f : Fault) : (s.withFault f).stack = s.stack := rfl
@[simp] theorem State.withFault_mem (s : State) (f : Fault) : (s.withFault f).mem = s.mem := rfl
@[simp] theorem State.withFault_dt (s : State) (f : Fault) : (s.withFault f).dt = s.dt := rfl
@[simp] theorem State.withFault_st (s : State) (f : Fault) : (s.withFault f).st = s.st := rfl
@[simp] theorem State.withFault_key (s : State) (f : Fault) : (s.withFault f).key = s.key := rfl
@[simp] theorem State.withFault_fb (s : State) (f : Fault) : (s.withFault f).fb = s.fb := rfl
@[simp] theorem State.withFault_compat (s : State) (f : Fault) : (s.withFault f).compat = s.compat := rfl
@[simp] theorem State.withFault_status (s : State) (f : Fault) : (s.withFault f).status = .faulted f := rfl
@[simp] theorem State.withFault_draws (s : State) (f : Fault) : (s.withFault f).draws = s.draws := rfl
@[simp] theorem State.withFault_reg (s : State) (f : Fault) (r : Nibble) : (s.withFault f).reg r = s.reg r := rfl
@[simp] theorem State.withFault_byte (s : State) (f : Fault) (a : Nat) : (s.withFault f).byte a = s.byte a := rfl
@[simp] theorem State.withFault_keyDown (s : State) (f : Fault) (k : Nibble) : (s.withFault f).keyDown k = s.keyDown k := rfl
@[simp] theorem State.withFault_pixel (s : State) (f : Fault) (x y : Nat) : (s.withFault f).pixel x y = s.pixel x y := rfl

/-! ### `advance` -/

@[simp] theorem State.advance_v (s : State) : (s.advance).v = s.v := rfl
@[simp] theorem State.advance_i (s : State) : (s.advance).i = s.i := rfl
@[simp] theorem State.advance_pc (s : State) : (s.advance).pc = s.pc + 2 := rfl
@[simp] theorem State.advance_stack (s : State) : (s.advance).stack = s.stack := rfl
@[simp] theorem State.advance_mem (s : State) : (s.advance).mem = s.mem := rfl
@[simp] theorem State.advance_dt (s : State) : (s.advance).dt = s.dt := rfl
@[simp] theorem State.advance_st (s : State) : (s.advance).st = s.st := rfl
@[simp] theorem State.advance_key (s : State) : (s.advance).key = s.key := rfl
@[simp] theorem State.advance_fb (s : State) : (s.advance).fb = s.fb := rfl
@[simp] theorem State.advance_compat (s : State) : (s.advance).compat = s.compat := rfl
@[simp] theorem State.advance_status (s : State) : (s.advance).status = s.status := rfl
@[simp] theorem State.advance_draws (s : State) : (s.advance).draws = s.draws := rfl
@[simp] theorem State.advance_reg (s : State) (r : Nibble) : (s.advance).reg r = s.reg r := rfl
@[simp] theorem State.advance_byte (s : State) (a : Nat) : (s.advance).byte a = s.byte a := rfl
@[simp] theorem State.advance_keyDown (s : State) (k : Nibble) : (s.advance).keyDown k = s.keyDown k := rfl
@[simp] theorem State.advance_pixel (s : State) (x y : Nat) : (s.advance).pixel x y = s.pixel x y := rfl

/-! ### The updated part itself -/

theorem State.reg_setReg (s : State) (x r : Nibble) (b : Byte) :
    (s.setReg x b).reg r = if x = r then b else s.reg r := by
  simp only [State.reg, State.setReg, Vector.getElem_set, BitVec.toNat_inj]

@[simp] theorem State.reg_setReg_self (s : State) (x : Nibble) (b : Byte) : (s.setReg x b).reg x = b := by
  simp [State.reg_setReg]

theorem State.reg_setReg_of_ne (s : State) {x r : Nibble} (b : Byte) (h : r ≠ x) : (s.setReg x b).reg r = s.reg r := by
  simp [State.reg_setReg, Ne.symm h]

theorem State.keyDown_setKeyDown (s : State) (j k : Nibble) (p : Bool) :
    (s.setKeyDown j p).keyDown k = if j = k then p else s.keyDown k := by
  simp only [State.keyDown, State.setKeyDown, Vector.getElem_set, BitVec.toNat_inj]

@[simp] theorem State.setMem_byte (s : State) (m : Memory) (a : Nat) : (s.setMem m).byte a = m.read a := rfl

@[simp] theorem State.setFb_pixel (s : State) (g : Framebuffer) (x y : Nat) : (s.setFb g).pixel x y = g.pixel x y := rfl

/-- Two states with the same registers, read one by one, have the same register file. -/
theorem State.v_ext {s t : State} (h : ∀ r, t.reg r = s.reg r) : t.v = s.v := by
  apply Vector.ext
  intro k hk
  have := h (BitVec.ofNat 4 k)
  simpa [State.reg, Nat.mod_eq_of_lt hk] using this

end Sys2Proof.Machine
end

