-- ==== Sys2Proof/Laws/Operations.lean ====
section
/-! SUPPORT. One lemma for each shared operation of the meanings: what it leaves and what it writes; and the case split of a
step, said once. -/

namespace Sys2Proof.Machine

open Sys2Proof Sys2Proof.Config

/-! ### `writeResultThenFlag` leaves everything but the registers alone -/

@[simp] theorem State.writeResultThenFlag_i (s : State) (x : Nibble) (b f : Byte) : (s.writeResultThenFlag x b f).i = s.i := rfl
@[simp] theorem State.writeResultThenFlag_pc (s : State) (x : Nibble) (b f : Byte) : (s.writeResultThenFlag x b f).pc = s.pc := rfl
@[simp] theorem State.writeResultThenFlag_stack (s : State) (x : Nibble) (b f : Byte) : (s.writeResultThenFlag x b f).stack = s.stack := rfl
@[simp] theorem State.writeResultThenFlag_mem (s : State) (x : Nibble) (b f : Byte) : (s.writeResultThenFlag x b f).mem = s.mem := rfl
@[simp] theorem State.writeResultThenFlag_dt (s : State) (x : Nibble) (b f : Byte) : (s.writeResultThenFlag x b f).dt = s.dt := rfl
@[simp] theorem State.writeResultThenFlag_st (s : State) (x : Nibble) (b f : Byte) : (s.writeResultThenFlag x b f).st = s.st := rfl
@[simp] theorem State.writeResultThenFlag_key (s : State) (x : Nibble) (b f : Byte) : (s.writeResultThenFlag x b f).key = s.key := rfl
@[simp] theorem State.writeResultThenFlag_fb (s : State) (x : Nibble) (b f : Byte) : (s.writeResultThenFlag x b f).fb = s.fb := rfl
@[simp] theorem State.writeResultThenFlag_compat (s : State) (x : Nibble) (b f : Byte) : (s.writeResultThenFlag x b f).compat = s.compat := rfl
@[simp] theorem State.writeResultThenFlag_status (s : State) (x : Nibble) (b f : Byte) : (s.writeResultThenFlag x b f).status = s.status := rfl
@[simp] theorem State.writeResultThenFlag_draws (s : State) (x : Nibble) (b f : Byte) : (s.writeResultThenFlag x b f).draws = s.draws := rfl
@[simp] theorem State.writeResultThenFlag_byte (s : State) (x : Nibble) (b f : Byte) (a : Nat) : (s.writeResultThenFlag x b f).byte a = s.byte a := rfl
@[simp] theorem State.writeResultThenFlag_keyDown (s : State) (x : Nibble) (b f : Byte) (k : Nibble) : (s.writeResultThenFlag x b f).keyDown k = s.keyDown k := rfl
@[simp] theorem State.writeResultThenFlag_pixel (s : State) (x : Nibble) (b f : Byte) (px py : Nat) : (s.writeResultThenFlag x b f).pixel px py = s.pixel px py := rfl

/-! ### `writeFlagThenResult` leaves everything but the registers alone -/

@[simp] theorem State.writeFlagThenResult_i (s : State) (x : Nibble) (b f : Byte) : (s.writeFlagThenResult x b f).i = s.i := by
  unfold State.writeFlagThenResult; split <;> rfl
@[simp] theorem State.writeFlagThenResult_pc (s : State) (x : Nibble) (b f : Byte) : (s.writeFlagThenResult x b f).pc = s.pc := by
  unfold State.writeFlagThenResult; split <;> rfl
@[simp] theorem State.writeFlagThenResult_stack (s : State) (x : Nibble) (b f : Byte) : (s.writeFlagThenResult x b f).stack = s.stack := by
  unfold State.writeFlagThenResult; split <;> rfl
@[simp] theorem State.writeFlagThenResult_mem (s : State) (x : Nibble) (b f : Byte) : (s.writeFlagThenResult x b f).mem = s.mem := by
  unfold State.writeFlagThenResult; split <;> rfl
@[simp] theorem State.writeFlagThenResult_dt (s : State) (x : Nibble) (b f : Byte) : (s.writeFlagThenResult x b f).dt = s.dt := by
  unfold State.writeFlagThenResult; split <;> rfl
@[simp] theorem State.writeFlagThenResult_st (s : State) (x : Nibble) (b f : Byte) : (s.writeFlagThenResult x b f).st = s.st := by
  unfold State.writeFlagThenResult; split <;> rfl
@[simp] theorem State.writeFlagThenResult_key (s : State) (x : Nibble) (b f : Byte) : (s.writeFlagThenResult x b f).key = s.key := by
  unfold State.writeFlagThenResult; split <;> rfl
@[simp] theorem State.writeFlagThenResult_fb (s : State) (x : Nibble) (b f : Byte) : (s.writeFlagThenResult x b f).fb = s.fb := by
  unfold State.writeFlagThenResult; split <;> rfl
@[simp] theorem State.writeFlagThenResult_compat (s : State) (x : Nibble) (b f : Byte) : (s.writeFlagThenResult x b f).compat = s.compat := by
  unfold State.writeFlagThenResult; split <;> rfl
@[simp] theorem State.writeFlagThenResult_status (s : State) (x : Nibble) (b f : Byte) : (s.writeFlagThenResult x b f).status = s.status := by
  unfold State.writeFlagThenResult; split <;> rfl
@[simp] theorem State.writeFlagThenResult_draws (s : State) (x : Nibble) (b f : Byte) : (s.writeFlagThenResult x b f).draws = s.draws := by
  unfold State.writeFlagThenResult; split <;> rfl
@[simp] theorem State.writeFlagThenResult_byte (s : State) (x : Nibble) (b f : Byte) (a : Nat) : (s.writeFlagThenResult x b f).byte a = s.byte a := by
  unfold State.writeFlagThenResult; split <;> rfl
@[simp] theorem State.writeFlagThenResult_keyDown (s : State) (x : Nibble) (b f : Byte) (k : Nibble) : (s.writeFlagThenResult x b f).keyDown k = s.keyDown k := by
  unfold State.writeFlagThenResult; split <;> rfl
@[simp] theorem State.writeFlagThenResult_pixel (s : State) (x : Nibble) (b f : Byte) (px py : Nat) : (s.writeFlagThenResult x b f).pixel px py = s.pixel px py := by
  unfold State.writeFlagThenResult; split <;> rfl

/-! ### `writeCollision` leaves everything but the registers alone -/

@[simp] theorem State.writeCollision_i (s : State) (e : Bool) : (s.writeCollision e).i = s.i := by
  unfold State.writeCollision; split <;> rfl
@[simp] theorem State.writeCollision_pc (s : State) (e : Bool) : (s.writeCollision e).pc = s.pc := by
  unfold State.writeCollision; split <;> rfl
@[simp] theorem State.writeCollision_stack (s : State) (e : Bool) : (s.writeCollision e).stack = s.stack := by
  unfold State.writeCollision; split <;> rfl
@[simp] theorem State.writeCollision_mem (s : State) (e : Bool) : (s.writeCollision e).mem = s.mem := by
  unfold State.writeCollision; split <;> rfl
@[simp] theorem State.writeCollision_dt (s : State) (e : Bool) : (s.writeCollision e).dt = s.dt := by
  unfold State.writeCollision; split <;> rfl
@[simp] theorem State.writeCollision_st (s : State) (e : Bool) : (s.writeCollision e).st = s.st := by
  unfold State.writeCollision; split <;> rfl
@[simp] theorem State.writeCollision_key (s : State) (e : Bool) : (s.writeCollision e).key = s.key := by
  unfold State.writeCollision; split <;> rfl
@[simp] theorem State.writeCollision_fb (s : State) (e : Bool) : (s.writeCollision e).fb = s.fb := by
  unfold State.writeCollision; split <;> rfl
@[simp] theorem State.writeCollision_compat (s : State) (e : Bool) : (s.writeCollision e).compat = s.compat := by
  unfold State.writeCollision; split <;> rfl
@[simp] theorem State.writeCollision_status (s : State) (e : Bool) : (s.writeCollision e).status = s.status := by
  unfold State.writeCollision; split <;> rfl
@[simp] theorem State.writeCollision_draws (s : State) (e : Bool) : (s.writeCollision e).draws = s.draws := by
  unfold State.writeCollision; split <;> rfl
@[simp] theorem State.writeCollision_byte (s : State) (e : Bool) (a : Nat) : (s.writeCollision e).byte a = s.byte a := by
  unfold State.writeCollision; split <;> rfl
@[simp] theorem State.writeCollision_keyDown (s : State) (e : Bool) (k : Nibble) : (s.writeCollision e).keyDown k = s.keyDown k := by
  unfold State.writeCollision; split <;> rfl
@[simp] theorem State.writeCollision_pixel (s : State) (e : Bool) (px py : Nat) : (s.writeCollision e).pixel px py = s.pixel px py := by
  unfold State.writeCollision; split <;> rfl

/-! ### `loadRegs` -/

theorem State.loadRegs_zero (s : State) (base : Nat) : s.loadRegs base 0 = s := rfl

theorem State.loadRegs_succ (s : State) (base n : Nat) :
    s.loadRegs base (n + 1) = (s.loadRegs base n).setReg (BitVec.ofNat 4 n) (s.byte (base + n)) := by
  simp [State.loadRegs, List.range_succ]

/-- LoadRegRange writes nothing but the register file. -/
theorem State.loadRegs_eq (s : State) (base n : Nat) : ∃ v, s.loadRegs base n = { s with v := v } := by
  induction n with
  | zero => exact ⟨s.v, rfl⟩
  | succ n ih =>
    obtain ⟨v, hv⟩ := ih
    exact ⟨_, by rw [State.loadRegs_succ, hv]; rfl⟩

@[simp] theorem State.loadRegs_i (s : State) (base n : Nat) : (s.loadRegs base n).i = s.i := by
  obtain ⟨v, hv⟩ := s.loadRegs_eq base n; rw [hv]
@[simp] theorem State.loadRegs_pc (s : State) (base n : Nat) : (s.loadRegs base n).pc = s.pc := by
  obtain ⟨v, hv⟩ := s.loadRegs_eq base n; rw [hv]
@[simp] theorem State.loadRegs_stack (s : State) (base n : Nat) : (s.loadRegs base n).stack = s.stack := by
  obtain ⟨v, hv⟩ := s.loadRegs_eq base n; rw [hv]
@[simp] theorem State.loadRegs_mem (s : State) (base n : Nat) : (s.loadRegs base n).mem = s.mem := by
  obtain ⟨v, hv⟩ := s.loadRegs_eq base n; rw [hv]
@[simp] theorem State.loadRegs_dt (s : State) (base n : Nat) : (s.loadRegs base n).dt = s.dt := by
  obtain ⟨v, hv⟩ := s.loadRegs_eq base n; rw [hv]
@[simp] theorem State.loadRegs_st (s : State) (base n : Nat) : (s.loadRegs base n).st = s.st := by
  obtain ⟨v, hv⟩ := s.loadRegs_eq base n; rw [hv]
@[simp] theorem State.loadRegs_key (s : State) (base n : Nat) : (s.loadRegs base n).key = s.key := by
  obtain ⟨v, hv⟩ := s.loadRegs_eq base n; rw [hv]
@[simp] theorem State.loadRegs_fb (s : State) (base n : Nat) : (s.loadRegs base n).fb = s.fb := by
  obtain ⟨v, hv⟩ := s.loadRegs_eq base n; rw [hv]
@[simp] theorem State.loadRegs_compat (s : State) (base n : Nat) : (s.loadRegs base n).compat = s.compat := by
  obtain ⟨v, hv⟩ := s.loadRegs_eq base n; rw [hv]
@[simp] theorem State.loadRegs_status (s : State) (base n : Nat) : (s.loadRegs base n).status = s.status := by
  obtain ⟨v, hv⟩ := s.loadRegs_eq base n; rw [hv]
@[simp] theorem State.loadRegs_draws (s : State) (base n : Nat) : (s.loadRegs base n).draws = s.draws := by
  obtain ⟨v, hv⟩ := s.loadRegs_eq base n; rw [hv]
@[simp] theorem State.loadRegs_byte (s : State) (base n : Nat) (a : Nat) : (s.loadRegs base n).byte a = s.byte a := by
  obtain ⟨v, hv⟩ := s.loadRegs_eq base n; rw [hv]; rfl
@[simp] theorem State.loadRegs_keyDown (s : State) (base n : Nat) (k : Nibble) : (s.loadRegs base n).keyDown k = s.keyDown k := by
  obtain ⟨v, hv⟩ := s.loadRegs_eq base n; rw [hv]; rfl
@[simp] theorem State.loadRegs_pixel (s : State) (base n : Nat) (px py : Nat) : (s.loadRegs base n).pixel px py = s.pixel px py := by
  obtain ⟨v, hv⟩ := s.loadRegs_eq base n; rw [hv]; rfl

theorem State.loadRegs_reg (s : State) (base n : Nat) (hn : n ≤ 16) (r : Nibble) :
    (s.loadRegs base n).reg r = if r.toNat < n then s.byte (base + r.toNat) else s.reg r := by
  induction n with
  | zero => simp [State.loadRegs_zero]
  | succ n ih =>
    rw [State.loadRegs_succ, State.reg_setReg]
    by_cases h : BitVec.ofNat 4 n = r
    · have hr : r.toNat = n := by
        rw [← h, BitVec.toNat_ofNat]
        exact Nat.mod_eq_of_lt (by omega)
      simp [h, hr]
    · have hr : r.toNat ≠ n := fun e => h (by rw [← e]; simp)
      rw [if_neg h, ih (by omega)]
      by_cases hlt : r.toNat < n
      · rw [if_pos hlt, if_pos (by omega)]
      · rw [if_neg hlt, if_neg (by omega)]

/-! ### `firstRegs` -/

@[simp] theorem State.firstRegs_length (s : State) (n : Nat) : (s.firstRegs n).length = n := by simp [State.firstRegs]

theorem State.firstRegs_get (s : State) {n k : Nat} (h : k < n) :
    (s.firstRegs n)[k]? = some (s.reg (BitVec.ofNat 4 k)) := by
  simp [State.firstRegs, h]

/-! ### The two write orders -/

/-- IncrBy: VF ends as the flag, and V[x] as the result unless x is F. -/
theorem State.writeResultThenFlag_reg (s : State) (x r : Nibble) (b f : Byte) :
    (s.writeResultThenFlag x b f).reg r = if r = vf then f else if r = x then b else s.reg r := by
  simp only [State.writeResultThenFlag, State.reg_setReg, eq_comm]

/-- A register that is neither V[x] nor VF is unchanged. -/
theorem State.writeFlagThenResult_reg_other (s : State) {x r : Nibble} (b f : Byte) (h : r ≠ x) (h' : r ≠ vf) :
    (s.writeFlagThenResult x b f).reg r = s.reg r := by
  unfold State.writeFlagThenResult
  split
  · rw [State.reg_setReg_of_ne _ _ h, State.reg_setReg_of_ne _ _ h']
  · rw [State.writeResultThenFlag, State.reg_setReg_of_ne _ _ h', State.reg_setReg_of_ne _ _ h]

/-- V[x] ends as the result, unless x is F and the flag is written last. -/
theorem State.writeFlagThenResult_reg_result (s : State) (x : Nibble) (b f : Byte)
    (h : x ≠ vf ∨ pVfWriteOrder = .sourceOrder) : (s.writeFlagThenResult x b f).reg x = b := by
  unfold State.writeFlagThenResult
  split
  · simp
  · rename_i ho
    have hx : x ≠ vf := h.resolve_right (by rw [ho]; decide)
    rw [State.writeResultThenFlag, State.reg_setReg_of_ne _ _ hx, State.reg_setReg_self]

/-- VF ends as the flag, unless x is F and the result is written last. -/
theorem State.writeFlagThenResult_reg_flag (s : State) (x : Nibble) (b f : Byte)
    (h : x ≠ vf ∨ pVfWriteOrder = .flagLast) : (s.writeFlagThenResult x b f).reg vf = f := by
  unfold State.writeFlagThenResult
  split
  · rename_i ho
    have hx : x ≠ vf := h.resolve_right (by rw [ho]; decide)
    rw [State.reg_setReg_of_ne _ _ (Ne.symm hx), State.reg_setReg_self]
  · rw [State.writeResultThenFlag, State.reg_setReg_self]

theorem State.writeCollision_reg (s : State) (e : Bool) (r : Nibble) :
    (s.writeCollision e).reg r = if r = vf ∧ pDrawCollision = true then flagByte e else s.reg r := by
  unfold State.writeCollision
  by_cases hp : pDrawCollision = true
  · by_cases hr : r = vf
    · simp [hp, hr]
    · rw [if_pos hp, State.reg_setReg_of_ne _ _ hr, if_neg fun h => hr h.1]
  · simp [hp]

/-! ### Bounds, skips and faults -/

theorem guardRange_of_fits {base count : Nat} (s : State) (go : Host.Outcome State Fault Refusal)
    (h : count = 0 ∨ base + count ≤ memSize) : guardRange base count s go = go := by
  have : ¬ (0 < count ∧ memSize ≤ base + count - 1) := by omega
  simp [guardRange, rangeFault, this]

theorem guardRange_of_exceeds {base count : Nat} (s : State) (go : Host.Outcome State Fault Refusal)
    (h : 0 < count) (h' : memSize < base + count) :
    guardRange base count s go = .next (s.withFault (.memoryBounds (max base memSize))) := by
  have : 0 < count ∧ memSize ≤ base + count - 1 := by omega
  simp [guardRange, rangeFault, this, takeFault]

/-- Everything a bounds check can do: go on, or take the fault. -/
theorem guardRange_cases (base count : Nat) (s : State) (go : Host.Outcome State Fault Refusal) :
    ((count = 0 ∨ base + count ≤ memSize) ∧ guardRange base count s go = go) ∨
    (0 < count ∧ memSize < base + count ∧
      guardRange base count s go = .next (s.withFault (.memoryBounds (max base memSize)))) := by
  by_cases h : count = 0 ∨ base + count ≤ memSize
  · exact .inl ⟨h, guardRange_of_fits s go h⟩
  · exact .inr ⟨by omega, by omega, guardRange_of_exceeds s go (by omega) (by omega)⟩

theorem pc_add_two_add_two (w : Word) : w + 2 + 2 = w + 4 := by rw [BitVec.add_assoc]; rfl

/-- A skip writes pc and nothing else. -/
theorem skipIf_eq (taken : Bool) (s : State) :
    skipIf taken s = .next (s.setPc (if taken then s.pc + 4 else s.pc + 2)) := by
  cases taken
  · rfl
  · simp only [skipIf, if_true, State.advance_pc, pc_add_two_add_two]; rfl

/-- The step, said once: refused in Faulted; a fault of the fetch; a fault of the decode; or exec of the decoded instruction. -/
theorem step_cases (s : State) :
    (∃ f, s.status = .faulted f ∧ step s = .refused (.stepWhileFaulted f)) ∨
    (s.status = .running ∧ ∃ f, s.fetch = .error f ∧ step s = .next (s.withFault f)) ∨
    (s.status = .running ∧ ∃ w e, s.fetch = .ok w ∧ decode w = .error e ∧ step s = .next (s.withFault (.decodeError w))) ∨
    (s.status = .running ∧ ∃ w i, s.fetch = .ok w ∧ decode w = .ok i ∧ step s = exec i s) := by
  rcases hs : s.status with _ | f
  · rcases hf : s.fetch with f | w
    · exact .inr (.inl ⟨rfl, f, rfl, by simp [step, hs, hf, takeFault]⟩)
    · rcases hd : decode w with e | i
      · exact .inr (.inr (.inl ⟨rfl, w, e, rfl, hd, by simp [step, hs, hf, hd, takeFault]⟩))
      · exact .inr (.inr (.inr ⟨rfl, w, i, rfl, hd, by simp [step, hs, hf, hd]⟩))
  · exact .inl ⟨f, rfl, by simp [step, hs]⟩

/-- A fetch that answers a word was inside memory, and the word is its two bytes, the first the high one. -/
theorem State.fetch_ok {s : State} {w : Word} (h : s.fetch = .ok w) :
    s.pc.toNat + 1 < memSize ∧ w = s.byte s.pc.toNat ++ s.byte (s.pc.toNat + 1) := by
  unfold State.fetch at h
  simp only at h
  split at h
  · cases h
  · split at h
    · cases h
    · rename_i h1 h2
      cases h
      exact ⟨by omega, rfl⟩

theorem State.fetch_of_lt {s : State} (h : s.pc.toNat + 1 < memSize) :
    s.fetch = .ok (s.byte s.pc.toNat ++ s.byte (s.pc.toNat + 1)) := by
  have h1 : ¬ memSize ≤ s.pc.toNat := by omega
  have h2 : ¬ memSize ≤ s.pc.toNat + 1 := by omega
  simp only [State.fetch, h1, h2, if_false]; rfl

end Sys2Proof.Machine
end

