-- ==== Sys2Proof/Laws/Display.lean ====
section
/-! SUPPORT. The framebuffer: a read after a pixel write, and what the blit of a sprite does to every pixel of the grid and to
the collision flag, said once in closed form (44_display.md R222, R223, R225). -/

namespace Sys2Proof.Machine

open Sys2Proof Sys2Proof.Config

theorem Framebuffer.pixel_outside (fb : Framebuffer) {x y : Nat} (h : ¬ (x < screenW ∧ y < screenH)) :
    fb.pixel x y = false := by
  simp only [Framebuffer.pixel, h, dite_false]

theorem Framebuffer.pixel_setPixel (fb : Framebuffer) (x y x' y' : Nat) (b : Bool) (hx : x < screenW) (hy : y < screenH) :
    (fb.setPixel x y b).pixel x' y' = if x = x' ∧ y = y' then b else fb.pixel x' y' := by
  have hxy : x < screenW ∧ y < screenH := ⟨hx, hy⟩
  by_cases h' : x' < screenW ∧ y' < screenH
  · simp only [Framebuffer.setPixel, Framebuffer.pixel, hxy, h', and_self, dite_true, Vector.getElem_set]
    by_cases ex : x = x'
    · subst ex
      by_cases ey : y = y'
      · subst ey; simp
      · simp [ey]
    · simp [ex]
  · rw [Framebuffer.pixel_outside _ h', Framebuffer.pixel_outside _ h', if_neg]
    rintro ⟨rfl, rfl⟩
    exact h' hxy

@[simp] theorem Framebuffer.pixel_blank (x y : Nat) : Framebuffer.blank.pixel x y = false := by
  unfold Framebuffer.pixel Framebuffer.blank
  split <;> simp

/-- Two grids with the same pixels are the same. -/
theorem Framebuffer.ext_pixel {fb fb' : Framebuffer} (h : ∀ x y, fb.pixel x y = fb'.pixel x y) : fb = fb' := by
  apply Vector.ext
  intro x hx
  apply Vector.ext
  intro y hy
  have := h x y
  simpa [Framebuffer.pixel, hx, hy] using this

/-- The bit the first `n` columns of a sprite row put at (X, Y). -/
def rowBit (x0 py : Nat) (row : Byte) (n X Y : Nat) : Bool :=
  decide (x0 ≤ X ∧ X < x0 + n ∧ Y = py) && spriteBit row (X - x0)

/-- The bit the rows of a sprite put at (X, Y). -/
def rowsBit (x0 y0 : Nat) (rows : List Byte) (X Y : Nat) : Bool :=
  decide (x0 ≤ X ∧ X < x0 + 8 ∧ y0 ≤ Y ∧ Y < y0 + rows.length) && spriteBit (rows[Y - y0]?.getD 0) (X - x0)

/-- One pixel of a sprite: XORed inside the grid, dropped outside it. -/
theorem blitPixel_pixel (px py : Nat) (bit : Bool) (acc : Framebuffer × Bool) {X Y : Nat} (hX : X < screenW)
    (hY : Y < screenH) :
    (blitPixel px py bit acc).1.pixel X Y = (acc.1.pixel X Y ^^ (decide (px = X ∧ py = Y) && bit)) := by
  unfold blitPixel
  split
  · rename_i h
    rw [Framebuffer.pixel_setPixel _ _ _ _ _ _ h.1 h.2.1]
    by_cases e : px = X ∧ py = Y
    · obtain ⟨rfl, rfl⟩ := e
      simp [h.2.2]
    · simp [e]
  · rename_i h
    by_cases e : px = X ∧ py = Y
    · obtain ⟨rfl, rfl⟩ := e
      have : bit = false := by
        cases bit
        · rfl
        · exact absurd ⟨hX, hY, rfl⟩ h
      simp [this]
    · simp [e]

theorem blitPixel_erased (px py : Nat) (bit : Bool) (acc : Framebuffer × Bool) :
    (blitPixel px py bit acc).2 = true ↔
      acc.2 = true ∨ (px < screenW ∧ py < screenH ∧ bit = true ∧ acc.1.pixel px py = true) := by
  unfold blitPixel
  split
  · rename_i h
    simp [h]
  · rename_i h
    constructor
    · exact .inl
    · rintro (h' | ⟨h1, h2, h3, -⟩)
      · exact h'
      · exact absurd ⟨h1, h2, h3⟩ h

/-- The first `n` columns of a sprite row. -/
def blitCols (x0 py : Nat) (row : Byte) (n : Nat) (acc : Framebuffer × Bool) : Framebuffer × Bool :=
  (List.range n).foldl (fun acc c => blitPixel (x0 + c) py (spriteBit row c) acc) acc

theorem blitCols_succ (x0 py : Nat) (row : Byte) (n : Nat) (acc : Framebuffer × Bool) :
    blitCols x0 py row (n + 1) acc = blitPixel (x0 + n) py (spriteBit row n) (blitCols x0 py row n acc) := by
  simp [blitCols, List.range_succ]

theorem blitRow_eq_blitCols (x0 py : Nat) (row : Byte) (acc : Framebuffer × Bool) :
    blitRow x0 py row acc = blitCols x0 py row 8 acc := rfl

theorem rowBit_succ (x0 py : Nat) (row : Byte) (n X Y : Nat) :
    rowBit x0 py row (n + 1) X Y =
      (rowBit x0 py row n X Y ^^ (decide (x0 + n = X ∧ py = Y) && spriteBit row n)) := by
  unfold rowBit
  by_cases e : x0 + n = X ∧ py = Y
  · obtain ⟨rfl, rfl⟩ := e
    simp
  · have h : (x0 ≤ X ∧ X < x0 + (n + 1) ∧ Y = py) ↔ (x0 ≤ X ∧ X < x0 + n ∧ Y = py) := by
      constructor <;> intro h <;> refine ⟨h.1, ?_, h.2.2⟩ <;> [skip; omega]
      have : x0 + n ≠ X := fun h' => e ⟨h', h.2.2.symm⟩
      omega
    simp [e, h]

theorem blitCols_pixel (x0 py : Nat) (row : Byte) (n : Nat) (acc : Framebuffer × Bool) {X Y : Nat} (hX : X < screenW)
    (hY : Y < screenH) :
    (blitCols x0 py row n acc).1.pixel X Y = (acc.1.pixel X Y ^^ rowBit x0 py row n X Y) := by
  induction n with
  | zero =>
    have : ¬ (x0 ≤ X ∧ X < x0 ∧ Y = py) := by omega
    simp [blitCols, rowBit, this]
  | succ n ih => rw [blitCols_succ, blitPixel_pixel _ _ _ _ hX hY, ih, rowBit_succ, Bool.xor_assoc]

theorem blitCols_erased (x0 py : Nat) (row : Byte) (n : Nat) (acc : Framebuffer × Bool) :
    (blitCols x0 py row n acc).2 = true ↔ acc.2 = true ∨
      ∃ X Y, X < screenW ∧ Y < screenH ∧ acc.1.pixel X Y = true ∧ rowBit x0 py row n X Y = true := by
  induction n with
  | zero =>
    have : ∀ X Y, rowBit x0 py row 0 X Y = false := by
      intro X Y
      have : ¬ (x0 ≤ X ∧ X < x0 ∧ Y = py) := by omega
      simp [rowBit, this]
    simp [blitCols, this]
  | succ n ih =>
    rw [blitCols_succ, blitPixel_erased, ih, or_assoc]
    refine or_congr_right ?_
    constructor
    · rintro (⟨X, Y, hX, hY, hp, hb⟩ | ⟨hX, hY, hb, hp⟩)
      · refine ⟨X, Y, hX, hY, hp, ?_⟩
        simp only [rowBit, Bool.and_eq_true, decide_eq_true_eq] at hb ⊢
        exact ⟨⟨hb.1.1, by omega, hb.1.2.2⟩, hb.2⟩
      · rw [blitCols_pixel _ _ _ _ _ hX hY] at hp
        have h0 : rowBit x0 py row n (x0 + n) py = false := by simp [rowBit]
        refine ⟨x0 + n, py, hX, hY, by simpa [h0] using hp, ?_⟩
        simp [rowBit, hb]
    · rintro ⟨X, Y, hX, hY, hp, hb⟩
      by_cases e : X = x0 + n
      · simp only [rowBit, Bool.and_eq_true, decide_eq_true_eq] at hb
        obtain ⟨⟨-, -, rfl⟩, hb⟩ := hb
        subst e
        refine .inr ⟨hX, hY, by simpa using hb, ?_⟩
        rw [blitCols_pixel _ _ _ _ _ hX hY]
        simp [rowBit, hp]
      · refine .inl ⟨X, Y, hX, hY, hp, ?_⟩
        simp only [rowBit, Bool.and_eq_true, decide_eq_true_eq] at hb ⊢
        exact ⟨⟨hb.1.1, by omega, hb.1.2.2⟩, hb.2⟩

theorem rowsBit_nil (x0 y0 X Y : Nat) : rowsBit x0 y0 [] X Y = false := by
  have : ¬ (x0 ≤ X ∧ X < x0 + 8 ∧ y0 ≤ Y ∧ Y < y0) := by omega
  simp [rowsBit, this]

theorem rowsBit_cons (x0 y0 : Nat) (row : Byte) (rest : List Byte) (X Y : Nat) :
    rowsBit x0 y0 (row :: rest) X Y = (rowBit x0 y0 row 8 X Y ^^ rowsBit x0 (y0 + 1) rest X Y) := by
  unfold rowsBit rowBit
  by_cases hY : Y = y0
  · subst hY
    have h1 : ¬ (x0 ≤ X ∧ X < x0 + 8 ∧ Y + 1 ≤ Y ∧ Y < Y + 1 + rest.length) := by omega
    rw [decide_eq_false h1]
    simp
  · have h1 : ¬ (x0 ≤ X ∧ X < x0 + 8 ∧ Y = y0) := fun h => hY h.2.2
    have h2 : (x0 ≤ X ∧ X < x0 + 8 ∧ y0 ≤ Y ∧ Y < y0 + (row :: rest).length) ↔
        (x0 ≤ X ∧ X < x0 + 8 ∧ y0 + 1 ≤ Y ∧ Y < y0 + 1 + rest.length) := by
      simp only [List.length_cons]; omega
    rw [decide_eq_false h1, decide_eq_decide.2 h2, Bool.false_and, Bool.false_xor]
    by_cases hc : x0 ≤ X ∧ X < x0 + 8 ∧ y0 + 1 ≤ Y ∧ Y < y0 + 1 + rest.length
    · have h3 : Y - y0 = Y - (y0 + 1) + 1 := by omega
      rw [h3, List.getElem?_cons_succ]
    · rw [decide_eq_false hc, Bool.false_and, Bool.false_and]

/-- A sprite puts one row at row y0 and the others below it: never two bits on one pixel. -/
theorem rowsBit_disjoint {x0 y0 : Nat} {row : Byte} {rest : List Byte} {X Y : Nat}
    (h : rowBit x0 y0 row 8 X Y = true) : rowsBit x0 (y0 + 1) rest X Y = false := by
  simp only [rowBit, Bool.and_eq_true, decide_eq_true_eq] at h
  have : ¬ (x0 ≤ X ∧ X < x0 + 8 ∧ y0 + 1 ≤ Y ∧ Y < y0 + 1 + rest.length) := by omega
  rw [rowsBit, decide_eq_false this, Bool.false_and]

/-- Every pixel of the grid after the blit of a sprite. -/
theorem blitRows_pixel (x0 : Nat) (rows : List Byte) (y0 : Nat) (acc : Framebuffer × Bool) {X Y : Nat}
    (hX : X < screenW) (hY : Y < screenH) :
    (blitRows x0 y0 rows acc).1.pixel X Y = (acc.1.pixel X Y ^^ rowsBit x0 y0 rows X Y) := by
  induction rows generalizing y0 acc with
  | nil => simp [blitRows, rowsBit_nil]
  | cons row rest ih =>
    rw [blitRows, ih, blitRow_eq_blitCols, blitCols_pixel _ _ _ _ _ hX hY, rowsBit_cons, Bool.xor_assoc]

/-- Whether the blit of a sprite turns a pixel off. -/
theorem blitRows_erased (x0 : Nat) (rows : List Byte) (y0 : Nat) (acc : Framebuffer × Bool) :
    (blitRows x0 y0 rows acc).2 = true ↔ acc.2 = true ∨
      ∃ X Y, X < screenW ∧ Y < screenH ∧ acc.1.pixel X Y = true ∧ rowsBit x0 y0 rows X Y = true := by
  induction rows generalizing y0 acc with
  | nil => simp [blitRows, rowsBit_nil]
  | cons row rest ih =>
    rw [blitRows, ih, blitRow_eq_blitCols, blitCols_erased, or_assoc]
    refine or_congr_right ?_
    constructor
    · rintro (⟨X, Y, hX, hY, hp, hb⟩ | ⟨X, Y, hX, hY, hp, hb⟩)
      · exact ⟨X, Y, hX, hY, hp, by simp [rowsBit_cons, hb, rowsBit_disjoint hb]⟩
      · rw [blitCols_pixel _ _ _ _ _ hX hY] at hp
        have h0 : rowBit x0 y0 row 8 X Y = false := by
          by_contra h
          rw [rowsBit_disjoint (by simpa using h)] at hb
          cases hb
        exact ⟨X, Y, hX, hY, by simpa [h0] using hp, by simp [rowsBit_cons, hb, h0]⟩
    · rintro ⟨X, Y, hX, hY, hp, hb⟩
      rw [rowsBit_cons] at hb
      by_cases h : rowBit x0 y0 row 8 X Y = true
      · exact .inl ⟨X, Y, hX, hY, hp, h⟩
      · simp only [Bool.not_eq_true] at h
        refine .inr ⟨X, Y, hX, hY, ?_, by simpa [h] using hb⟩
        rw [blitCols_pixel _ _ _ _ _ hX hY, h, hp]
        rfl

end Sys2Proof.Machine
end

