-- ==== Sys2Proof/Laws/Memory.lean ====
section
/-! SUPPORT. Memory: a read after a write, for every list; and every memory operation keeps the canonical form. -/

namespace Sys2Proof.Machine

theorem Memory.read_insert (m : Memory) (a a' : Nat) (b : Byte) :
    (Memory.insert a b m).read a' = if a = a' then b else m.read a' := by
  induction m with
  | nil => simp [Memory.insert, Memory.read]
  | cons c rest ih =>
    simp only [Memory.insert]
    split
    · simp [Memory.read]
    · split
      · rename_i h
        by_cases ha : a = a'
        · simp [Memory.read, ha]
        · simp [Memory.read, ha, ← h]
      · rename_i h₁ h₂
        by_cases hc : c.1 = a'
        · have : a ≠ a' := fun h => h₂ (h.trans hc.symm)
          simp [Memory.read, hc, this]
        · simp [Memory.read, hc, ih]

theorem Memory.read_filter (m : Memory) (a a' : Nat) :
    Memory.read (m.filter fun c => c.1 != a) a' = if a = a' then resetByte a' else m.read a' := by
  induction m with
  | nil => simp [Memory.read]
  | cons c rest ih =>
    simp only [List.filter_cons]
    by_cases h : c.1 = a
    · simp only [h, bne_self_eq_false, Bool.false_eq_true, if_false, ih, Memory.read]
      by_cases ha : a = a' <;> simp [ha]
    · simp only [bne_iff_ne, ne_eq, h, not_false_eq_true, if_true, Memory.read, ih]
      by_cases ha : c.1 = a'
      · have : a ≠ a' := fun e => h (ha.trans e.symm)
        simp [ha, this]
      · simp [ha]

/-- Read after write: the byte stored at its address, every other byte as before. -/
theorem Memory.read_write (m : Memory) (a a' : Nat) (b : Byte) :
    (m.write a b).read a' = if a = a' then b else m.read a' := by
  unfold Memory.write
  split
  · rename_i h
    rw [Memory.read_filter]
    by_cases ha : a = a'
    · simp [ha, h]
    · simp [ha]
  · exact Memory.read_insert m a a' b

/-- Read after storing a list of bytes: inside the stored range the byte of the list, every other byte as before. -/
theorem Memory.read_writeBytes (bytes : List Byte) (m : Memory) (a a' : Nat) :
    (m.writeBytes a bytes).read a' =
      if a ≤ a' ∧ a' < a + bytes.length then bytes[a' - a]?.getD 0 else m.read a' := by
  induction bytes generalizing m a with
  | nil => simp [Memory.writeBytes]
  | cons b rest ih =>
    simp only [Memory.writeBytes, ih, Memory.read_write, List.length_cons]
    by_cases h1 : a + 1 ≤ a' ∧ a' < a + 1 + rest.length
    · have h2 : a ≤ a' ∧ a' < a + (rest.length + 1) := by omega
      have h3 : a' - a = (a' - (a + 1)) + 1 := by omega
      rw [if_pos h1, if_pos h2, h3, List.getElem?_cons_succ]
    · rw [if_neg h1]
      by_cases h4 : a = a'
      · subst h4
        rw [if_pos rfl, if_pos (by omega)]
        simp
      · rw [if_neg h4, if_neg (by omega)]

theorem Memory.mem_insert {m : Memory} {a : Nat} {b : Byte} {c : Host.Cell} (h : c ∈ Memory.insert a b m) :
    c = (a, b) ∨ c ∈ m := by
  induction m with
  | nil => simpa [Memory.insert] using h
  | cons d rest ih =>
    simp only [Memory.insert] at h
    split at h
    · simpa using h
    · split at h
      · rcases List.mem_cons.1 h with h | h
        · exact .inl h
        · exact .inr (List.mem_cons_of_mem _ h)
      · rcases List.mem_cons.1 h with h | h
        · exact .inr (h ▸ List.mem_cons_self)
        · exact (ih h).imp id (List.mem_cons_of_mem _)

theorem Memory.wf_insert {m : Memory} {a : Nat} {b : Byte} (hm : Memory.wf m) (ha : a < memSize)
    (hb : b ≠ resetByte a) : Memory.wf (Memory.insert a b m) := by
  refine ⟨?_, ?_⟩
  · have hp := hm.1
    clear hm
    induction m with
    | nil => simp [Memory.insert]
    | cons d rest ih =>
      rw [List.pairwise_cons] at hp
      simp only [Memory.insert]
      split
      · rename_i h
        refine List.pairwise_cons.2 ⟨fun c hc => ?_, List.pairwise_cons.2 hp⟩
        rcases List.mem_cons.1 hc with rfl | hc
        · exact h
        · exact lt_trans h (hp.1 c hc)
      · split
        · rename_i h
          exact List.pairwise_cons.2 ⟨fun c hc => by simpa [h] using hp.1 c hc, hp.2⟩
        · rename_i h₁ h₂
          refine List.pairwise_cons.2 ⟨fun c hc => ?_, ih hp.2⟩
          rcases Memory.mem_insert hc with rfl | hc
          · exact lt_of_le_of_ne (not_lt.1 h₁) (Ne.symm h₂)
          · exact hp.1 c hc
  · intro c hc
    rcases Memory.mem_insert hc with rfl | hc
    · exact ⟨ha, hb⟩
    · exact hm.2 c hc

/-- A store inside memory keeps the canonical form. -/
theorem Memory.wf_write {m : Memory} {a : Nat} (b : Byte) (hm : Memory.wf m) (ha : a < memSize) :
    Memory.wf (m.write a b) := by
  unfold Memory.write
  split
  · exact ⟨hm.1.filter _, fun c hc => hm.2 c (List.mem_filter.1 hc).1⟩
  · rename_i hb
    exact Memory.wf_insert hm ha hb

/-- Storing a list of bytes inside memory keeps the canonical form. -/
theorem Memory.wf_writeBytes (bytes : List Byte) {m : Memory} {a : Nat} (hm : Memory.wf m)
    (ha : a + bytes.length ≤ memSize) : Memory.wf (m.writeBytes a bytes) := by
  induction bytes generalizing m a with
  | nil => exact hm
  | cons b rest ih =>
    simp only [List.length_cons] at ha
    exact ih (Memory.wf_write b hm (by omega)) (by omega)

theorem State.reset_mem_wf : Memory.wf State.reset.mem := by simp [State.reset, Memory.wf]

/-- Below the first listed address everything reads as after construction. -/
theorem Memory.read_of_lt {m : Memory} {a : Nat} (h : ∀ c ∈ m, a < c.1) : m.read a = resetByte a := by
  induction m with
  | nil => rfl
  | cons c rest ih =>
    have h1 := h c List.mem_cons_self
    have h2 : c.1 ≠ a := by omega
    simp only [Memory.read, h2, if_false]
    exact ih fun d hd => h d (List.mem_cons_of_mem _ hd)

theorem Memory.wf_tail {c : Host.Cell} {m : Memory} (h : Memory.wf (c :: m)) : Memory.wf m :=
  ⟨(List.pairwise_cons.1 h.1).2, fun d hd => h.2 d (List.mem_cons_of_mem _ hd)⟩

theorem Memory.read_head (c : Host.Cell) (m : Memory) : Memory.read (c :: m) c.1 = c.2 := by simp [Memory.read]

/-- In canonical form, memories that read the same everywhere are the same list. -/
theorem Memory.eq_of_read_eq {m m' : Memory} (hm : Memory.wf m) (hm' : Memory.wf m')
    (h : ∀ a, m.read a = m'.read a) : m = m' := by
  induction m generalizing m' with
  | nil =>
    cases m' with
    | nil => rfl
    | cons d rest' => exact absurd ((h d.1).trans (Memory.read_head d rest')).symm (hm'.2 d List.mem_cons_self).2
  | cons c rest ih =>
    cases m' with
    | nil => exact absurd ((h c.1).symm.trans (Memory.read_head c rest)).symm (hm.2 c List.mem_cons_self).2
    | cons d rest' =>
      have hc := (List.pairwise_cons.1 hm.1).1
      have hd := (List.pairwise_cons.1 hm'.1).1
      have hcd : c.1 = d.1 := by
        rcases lt_trichotomy c.1 d.1 with hlt | heq | hgt
        · have hl : Memory.read (d :: rest') c.1 = resetByte c.1 := Memory.read_of_lt fun e he => by
            rcases List.mem_cons.1 he with rfl | he
            · exact hlt
            · exact lt_trans hlt (hd e he)
          exact absurd ((Memory.read_head c rest).symm.trans ((h c.1).trans hl)) (hm.2 c List.mem_cons_self).2
        · exact heq
        · have hl : Memory.read (c :: rest) d.1 = resetByte d.1 := Memory.read_of_lt fun e he => by
            rcases List.mem_cons.1 he with rfl | he
            · exact hgt
            · exact lt_trans hgt (hc e he)
          exact absurd ((Memory.read_head d rest').symm.trans ((h d.1).symm.trans hl)) (hm'.2 d List.mem_cons_self).2
      have hval : c.2 = d.2 := by
        have := h c.1
        rwa [Memory.read_head, hcd, Memory.read_head] at this
      have hrest : rest = rest' := ih (Memory.wf_tail hm) (Memory.wf_tail hm') fun a => by
        by_cases ha : c.1 = a
        · rw [Memory.read_of_lt (m := rest) fun e he => ha ▸ hc e he,
            Memory.read_of_lt (m := rest') fun e he => ha ▸ hcd ▸ hd e he]
        · have := h a
          simpa only [Memory.read, ha, ← hcd, if_false] using this
      rw [show c = d from Prod.ext hcd hval, hrest]

end Sys2Proof.Machine
end

