-- ==== Sys2Proof/Laws/Outcomes.lean ====
section
/-! SUPPORT. What an instruction and a host action can end in, said once. -/

namespace Sys2Proof.Machine

open Sys2Proof Sys2Proof.Config

/-- Every instruction answers a next state: one that raised a fault, or one that leaves `status` alone. -/
theorem exec_answers (i : Instr) (s : State) : ∃ t, exec i s = .next t ∧ ((∃ f, t = s.withFault f) ∨ t.status = s.status) := by
  cases i
  case bcdReg x =>
    rcases guardRange_cases (effAddr s 0) 3 s (.next (s.advance.setMem (s.mem.writeBytes (effAddr s 0) (bcdDigits (s.reg x))))) with ⟨-, hg⟩ | ⟨-, -, hg⟩
    · exact ⟨_, hg, .inr rfl⟩
    · exact ⟨_, hg, .inl ⟨_, rfl⟩⟩
  case saveRegRange x =>
    rcases guardRange_cases (effAddr s 0) (x.toNat + 1) s (.next (s.advance.setMem (s.mem.writeBytes (effAddr s 0) (s.firstRegs (x.toNat + 1))))) with ⟨-, hg⟩ | ⟨-, -, hg⟩
    · exact ⟨_, hg, .inr rfl⟩
    · exact ⟨_, hg, .inl ⟨_, rfl⟩⟩
  case loadRegRange x =>
    rcases guardRange_cases (effAddr s 0) (x.toNat + 1) s (.next (s.advance.loadRegs (effAddr s 0) (x.toNat + 1))) with ⟨-, hg⟩ | ⟨-, -, hg⟩
    · exact ⟨_, hg, .inr (by simp)⟩
    · exact ⟨_, hg, .inl ⟨_, rfl⟩⟩
  case draw x y n =>
    rcases guardRange_cases (effAddr s 0) n.toNat s (.next ((s.advance.setFb (blitRows (originX s x) (originY s y) (spriteRows s n.toNat) (s.fb, false)).1).writeCollision (blitRows (originX s x) (originY s y) (spriteRows s n.toNat) (s.fb, false)).2)) with ⟨-, hg⟩ | ⟨-, -, hg⟩
    · exact ⟨_, hg, .inr (by simp)⟩
    · exact ⟨_, hg, .inl ⟨_, rfl⟩⟩
  case ret =>
    rcases hst : s.stack with _ | ⟨a, l⟩ <;> simp only [exec, execRet, hst, takeFault]
    · exact ⟨_, rfl, .inl ⟨_, rfl⟩⟩
    · exact ⟨_, rfl, .inr rfl⟩
  case call nnn =>
    simp only [exec, execCall]
    split
    · exact ⟨_, rfl, .inl ⟨_, rfl⟩⟩
    · exact ⟨_, rfl, .inr rfl⟩
  case waitForKey x =>
    refine ⟨_, rfl, .inr ?_⟩
    split <;> rfl
  all_goals first
    | exact ⟨_, rfl, .inr rfl⟩
    | exact ⟨_, skipIf_eq _ _, .inr rfl⟩

/-- A `setKey` that answers has written that key and nothing else. -/
theorem setKey_next {i : Nat} {p : Bool} {s t : State} (h : setKey i p s = .next t) : t = s.setKeyDown (BitVec.ofNat 4 i) p := by
  unfold setKey at h; split at h <;> cases h; rfl

/-- Everything a host action can do to the core. -/
theorem Session.act_cases {σ σ' : Session} {a : HostAction} {r : HostAnswer} (h : σ.act a = .next (σ', r)) :
    σ'.core = σ.core ∨ (a = .step ∧ Machine.step σ.core = .next σ'.core) ∨
    (a = .tickTimers ∧ σ'.core = Machine.tickTimers σ.core) ∨
    (∃ i p, a = .setKey i p ∧ Machine.setKey i p σ.core = .next σ'.core) ∨
    (∃ im, a = .loadProgram im ∧ im.length ≤ maxProgram ∧ σ'.core = σ.core.setMem (σ.core.mem.writeBytes loadOffset im)) := by
  cases a with
  | loadProgram im =>
    simp only [Session.act, Session.load] at h
    split at h
    · unfold loadProgram at h
      by_cases hl : maxProgram < im.length
      · rw [if_pos hl] at h; cases h; exact .inl rfl
      · rw [if_neg hl] at h; cases h
        exact .inr (.inr (.inr (.inr ⟨im, rfl, Nat.le_of_not_lt hl, rfl⟩)))
    · cases h
  | step =>
    simp only [Session.act, Session.step] at h
    split at h
    · rename_i core hc
      split at h <;> cases h <;> exact .inr (.inl ⟨rfl, hc⟩)
    · cases h
    · cases h
  | tickTimers => cases h; exact .inr (.inr (.inl ⟨rfl, rfl⟩))
  | setKey i p =>
    simp only [Session.act] at h
    split at h
    · rename_i core hc
      cases h; exact .inr (.inr (.inr (.inl ⟨i, p, rfl, hc⟩)))
    · cases h
    · cases h
  | framebufferSnapshot => cases h; exact .inl rfl

end Sys2Proof.Machine
end

