-- ==== Sys2Proof/Laws/PerInstr.lean ====
section
/-! SUPPORT. What holds of every instruction as it is written, one lemma per constructor: its word is well-formed by R90's own
list (which is written apart from the decoder), stands in the instruction's family, and decodes back to the instruction. -/

namespace Sys2Proof

/-- The family nibble of an instruction (30_encoding.md R84). -/
def Laws.RoundTrip.family : Instr → Nat
  | .clear | .ret => 0x0
  | .jump _ => 0x1
  | .call _ => 0x2
  | .skipImmEq _ _ => 0x3
  | .skipImmNe _ _ => 0x4
  | .skipRegEq _ _ => 0x5
  | .regAssign _ _ => 0x6
  | .regIncr _ _ => 0x7
  | .assign _ _ | .or _ _ | .and _ _ | .xor _ _ | .incrBy _ _ | .decrBy _ _ | .rightShift _ _ | .invDecrBy _ _
  | .leftShift _ _ => 0x8
  | .skipRegNe _ _ => 0x9
  | .setIndex _ => 0xA
  | .relJump _ => 0xB
  | .random _ _ => 0xC
  | .draw _ _ _ => 0xD
  | .keyPressed _ | .keyNotPressed _ => 0xE
  | .checkDelay _ | .waitForKey _ | .setDelay _ | .setBuzzer _ | .incrIndex _ | .setIndexHex _ | .bcdReg _
  | .saveRegRange _ | .loadRegRange _ => 0xF

/-- The statement made per instruction. -/
def Laws.RoundTrip.Statement (i : Instr) : Prop :=
  wellFormedWord (encode i) = true ∧ familyOf (encode i) = Laws.RoundTrip.family i ∧ decode (encode i) = .ok i

theorem familyOf_wordXYN (op x y n : Nibble) : familyOf (wordXYN op x y n) = op.toNat := by
  rw [familyOf, wordXYN_toNat]; omega

theorem familyOf_wordXNN (op x : Nibble) (nn : Byte) : familyOf (wordXNN op x nn) = op.toNat := by
  rw [familyOf, wordXNN_toNat]; omega

theorem familyOf_wordNNN (op : Nibble) (nnn : Imm12) : familyOf (wordNNN op nnn) = op.toNat := by
  rw [familyOf, wordNNN_toNat]; omega

theorem lastNibbleOf_wordXYN (op x y n : Nibble) : lastNibbleOf (wordXYN op x y n) = n.toNat := by
  rw [lastNibbleOf, wordXYN_toNat]; omega

theorem lastByteOf_wordXNN (op x : Nibble) (nn : Byte) : lastByteOf (wordXNN op x nn) = nn.toNat := by
  rw [lastByteOf, wordXNN_toNat]; omega

/-- In a family without a second level every word is an instruction. -/
theorem wellFormedWord_of_family {w : Word} {f : Nat} (hf : familyOf w = f)
    (h : (f == 0 || f == 5 || f == 8 || f == 9 || f == 0xE || f == 0xF) = false) : wellFormedWord w = true := by
  simp only [Bool.or_eq_false_iff] at h
  simp [wellFormedWord, illegalWord, illegalFixed, illegalSkipEq, illegalMath, illegalSkipNe, illegalKey, illegalExtra, hf, h]

/-- In families 5, 8 and 9 the last nibble decides. -/
theorem wellFormedWord_of_nibble {w : Word} {f n : Nat} (hf : familyOf w = f) (hn : lastNibbleOf w = n)
    (h : ((f == 5 && n != 0) || (f == 8 && [0x8, 0x9, 0xA, 0xB, 0xC, 0xD, 0xF].contains n) || (f == 9 && n != 0) ||
      f == 0 || f == 0xE || f == 0xF) = false) : wellFormedWord w = true := by
  simp only [Bool.or_eq_false_iff] at h
  simp [wellFormedWord, illegalWord, illegalFixed, illegalSkipEq, illegalMath, illegalSkipNe, illegalKey, illegalExtra, hf,
    hn, h, -List.contains_eq_mem, -List.contains_cons]

/-- In families E and F the last byte decides. -/
theorem wellFormedWord_of_byte {w : Word} {f b : Nat} (hf : familyOf w = f) (hb : lastByteOf w = b)
    (h : ((f == 0xE && !([0x9E, 0xA1].contains b)) ||
      (f == 0xF && !([0x07, 0x0A, 0x15, 0x18, 0x1E, 0x29, 0x33, 0x55, 0x65].contains b)) ||
      f == 0 || f == 5 || f == 8 || f == 9) = false) : wellFormedWord w = true := by
  simp only [Bool.or_eq_false_iff] at h
  simp [wellFormedWord, illegalWord, illegalFixed, illegalSkipEq, illegalMath, illegalSkipNe, illegalKey, illegalExtra, hf,
    hb, h, -List.contains_eq_mem, -List.contains_cons]

theorem Laws.RoundTrip.clear : Laws.RoundTrip.Statement .clear :=
  ⟨by decide, by decide, by decide⟩

theorem Laws.RoundTrip.ret : Laws.RoundTrip.Statement .ret :=
  ⟨by decide, by decide, by decide⟩

theorem Laws.RoundTrip.jump (nnn : Imm12) : Laws.RoundTrip.Statement (.jump nnn) :=
  ⟨wellFormedWord_of_family (familyOf_wordNNN _ _) (by decide), familyOf_wordNNN _ _,
    (decode_family1 (opField_wordNNN _ _)).trans (by rw [nnnField_wordNNN])⟩

theorem Laws.RoundTrip.call (nnn : Imm12) : Laws.RoundTrip.Statement (.call nnn) :=
  ⟨wellFormedWord_of_family (familyOf_wordNNN _ _) (by decide), familyOf_wordNNN _ _,
    (decode_family2 (opField_wordNNN _ _)).trans (by rw [nnnField_wordNNN])⟩

theorem Laws.RoundTrip.skipImmEq (x : Nibble) (nn : Byte) : Laws.RoundTrip.Statement (.skipImmEq x nn) :=
  ⟨wellFormedWord_of_family (familyOf_wordXNN _ _ _) (by decide), familyOf_wordXNN _ _ _,
    (decode_family3 (opField_wordXNN _ _ _)).trans (by rw [xField_wordXNN, nnField_wordXNN])⟩

theorem Laws.RoundTrip.skipImmNe (x : Nibble) (nn : Byte) : Laws.RoundTrip.Statement (.skipImmNe x nn) :=
  ⟨wellFormedWord_of_family (familyOf_wordXNN _ _ _) (by decide), familyOf_wordXNN _ _ _,
    (decode_family4 (opField_wordXNN _ _ _)).trans (by rw [xField_wordXNN, nnField_wordXNN])⟩

theorem Laws.RoundTrip.skipRegEq (x : Nibble) (y : Nibble) : Laws.RoundTrip.Statement (.skipRegEq x y) :=
  ⟨wellFormedWord_of_nibble (familyOf_wordXYN _ _ _ _) (lastNibbleOf_wordXYN _ _ _ _) (by decide), familyOf_wordXYN _ _ _ _,
    (decode_family5 (opField_wordXYN _ _ _ _)).trans ((decodeSkipReg_wordXYN _ _ _ _).trans (by rw [xField_wordXYN, yField_wordXYN]))⟩

theorem Laws.RoundTrip.regAssign (x : Nibble) (nn : Byte) : Laws.RoundTrip.Statement (.regAssign x nn) :=
  ⟨wellFormedWord_of_family (familyOf_wordXNN _ _ _) (by decide), familyOf_wordXNN _ _ _,
    (decode_family6 (opField_wordXNN _ _ _)).trans (by rw [xField_wordXNN, nnField_wordXNN])⟩

theorem Laws.RoundTrip.regIncr (x : Nibble) (nn : Byte) : Laws.RoundTrip.Statement (.regIncr x nn) :=
  ⟨wellFormedWord_of_family (familyOf_wordXNN _ _ _) (by decide), familyOf_wordXNN _ _ _,
    (decode_family7 (opField_wordXNN _ _ _)).trans (by rw [xField_wordXNN, nnField_wordXNN])⟩

theorem Laws.RoundTrip.assign (x : Nibble) (y : Nibble) : Laws.RoundTrip.Statement (.assign x y) :=
  ⟨wellFormedWord_of_nibble (familyOf_wordXYN _ _ _ _) (lastNibbleOf_wordXYN _ _ _ _) (by decide), familyOf_wordXYN _ _ _ _,
    (decode_family8 (opField_wordXYN _ _ _ _)).trans (decodeMath_assign _ _ _)⟩

theorem Laws.RoundTrip.or (x : Nibble) (y : Nibble) : Laws.RoundTrip.Statement (.or x y) :=
  ⟨wellFormedWord_of_nibble (familyOf_wordXYN _ _ _ _) (lastNibbleOf_wordXYN _ _ _ _) (by decide), familyOf_wordXYN _ _ _ _,
    (decode_family8 (opField_wordXYN _ _ _ _)).trans (decodeMath_or _ _ _)⟩

theorem Laws.RoundTrip.and (x : Nibble) (y : Nibble) : Laws.RoundTrip.Statement (.and x y) :=
  ⟨wellFormedWord_of_nibble (familyOf_wordXYN _ _ _ _) (lastNibbleOf_wordXYN _ _ _ _) (by decide), familyOf_wordXYN _ _ _ _,
    (decode_family8 (opField_wordXYN _ _ _ _)).trans (decodeMath_and _ _ _)⟩

theorem Laws.RoundTrip.xor (x : Nibble) (y : Nibble) : Laws.RoundTrip.Statement (.xor x y) :=
  ⟨wellFormedWord_of_nibble (familyOf_wordXYN _ _ _ _) (lastNibbleOf_wordXYN _ _ _ _) (by decide), familyOf_wordXYN _ _ _ _,
    (decode_family8 (opField_wordXYN _ _ _ _)).trans (decodeMath_xor _ _ _)⟩

theorem Laws.RoundTrip.incrBy (x : Nibble) (y : Nibble) : Laws.RoundTrip.Statement (.incrBy x y) :=
  ⟨wellFormedWord_of_nibble (familyOf_wordXYN _ _ _ _) (lastNibbleOf_wordXYN _ _ _ _) (by decide), familyOf_wordXYN _ _ _ _,
    (decode_family8 (opField_wordXYN _ _ _ _)).trans (decodeMath_incrBy _ _ _)⟩

theorem Laws.RoundTrip.decrBy (x : Nibble) (y : Nibble) : Laws.RoundTrip.Statement (.decrBy x y) :=
  ⟨wellFormedWord_of_nibble (familyOf_wordXYN _ _ _ _) (lastNibbleOf_wordXYN _ _ _ _) (by decide), familyOf_wordXYN _ _ _ _,
    (decode_family8 (opField_wordXYN _ _ _ _)).trans (decodeMath_decrBy _ _ _)⟩

theorem Laws.RoundTrip.rightShift (x : Nibble) (y : Nibble) : Laws.RoundTrip.Statement (.rightShift x y) :=
  ⟨wellFormedWord_of_nibble (familyOf_wordXYN _ _ _ _) (lastNibbleOf_wordXYN _ _ _ _) (by decide), familyOf_wordXYN _ _ _ _,
    (decode_family8 (opField_wordXYN _ _ _ _)).trans (decodeMath_rightShift _ _ _)⟩

theorem Laws.RoundTrip.invDecrBy (x : Nibble) (y : Nibble) : Laws.RoundTrip.Statement (.invDecrBy x y) :=
  ⟨wellFormedWord_of_nibble (familyOf_wordXYN _ _ _ _) (lastNibbleOf_wordXYN _ _ _ _) (by decide), familyOf_wordXYN _ _ _ _,
    (decode_family8 (opField_wordXYN _ _ _ _)).trans (decodeMath_invDecrBy _ _ _)⟩

theorem Laws.RoundTrip.leftShift (x : Nibble) (y : Nibble) : Laws.RoundTrip.Statement (.leftShift x y) :=
  ⟨wellFormedWord_of_nibble (familyOf_wordXYN _ _ _ _) (lastNibbleOf_wordXYN _ _ _ _) (by decide), familyOf_wordXYN _ _ _ _,
    (decode_family8 (opField_wordXYN _ _ _ _)).trans (decodeMath_leftShift _ _ _)⟩

theorem Laws.RoundTrip.skipRegNe (x : Nibble) (y : Nibble) : Laws.RoundTrip.Statement (.skipRegNe x y) :=
  ⟨wellFormedWord_of_nibble (familyOf_wordXYN _ _ _ _) (lastNibbleOf_wordXYN _ _ _ _) (by decide), familyOf_wordXYN _ _ _ _,
    (decode_family9 (opField_wordXYN _ _ _ _)).trans ((decodeSkipReg_wordXYN _ _ _ _).trans (by rw [xField_wordXYN, yField_wordXYN]))⟩

theorem Laws.RoundTrip.setIndex (nnn : Imm12) : Laws.RoundTrip.Statement (.setIndex nnn) :=
  ⟨wellFormedWord_of_family (familyOf_wordNNN _ _) (by decide), familyOf_wordNNN _ _,
    (decode_familyA (opField_wordNNN _ _)).trans (by rw [nnnField_wordNNN])⟩

theorem Laws.RoundTrip.relJump (nnn : Imm12) : Laws.RoundTrip.Statement (.relJump nnn) :=
  ⟨wellFormedWord_of_family (familyOf_wordNNN _ _) (by decide), familyOf_wordNNN _ _,
    (decode_familyB (opField_wordNNN _ _)).trans (by rw [nnnField_wordNNN])⟩

theorem Laws.RoundTrip.random (x : Nibble) (nn : Byte) : Laws.RoundTrip.Statement (.random x nn) :=
  ⟨wellFormedWord_of_family (familyOf_wordXNN _ _ _) (by decide), familyOf_wordXNN _ _ _,
    (decode_familyC (opField_wordXNN _ _ _)).trans (by rw [xField_wordXNN, nnField_wordXNN])⟩

theorem Laws.RoundTrip.draw (x : Nibble) (y : Nibble) (n : Nibble) : Laws.RoundTrip.Statement (.draw x y n) :=
  ⟨wellFormedWord_of_family (familyOf_wordXYN _ _ _ _) (by decide), familyOf_wordXYN _ _ _ _,
    (decode_familyD (opField_wordXYN _ _ _ _)).trans (by rw [xField_wordXYN, yField_wordXYN, nField_wordXYN])⟩

theorem Laws.RoundTrip.keyPressed (x : Nibble) : Laws.RoundTrip.Statement (.keyPressed x) :=
  ⟨wellFormedWord_of_byte (familyOf_wordXNN _ _ _) (lastByteOf_wordXNN _ _ _) (by decide), familyOf_wordXNN _ _ _,
    (decode_familyE (opField_wordXNN _ _ _)).trans (decodeKey_keyPressed _ _)⟩

theorem Laws.RoundTrip.keyNotPressed (x : Nibble) : Laws.RoundTrip.Statement (.keyNotPressed x) :=
  ⟨wellFormedWord_of_byte (familyOf_wordXNN _ _ _) (lastByteOf_wordXNN _ _ _) (by decide), familyOf_wordXNN _ _ _,
    (decode_familyE (opField_wordXNN _ _ _)).trans (decodeKey_keyNotPressed _ _)⟩

theorem Laws.RoundTrip.checkDelay (x : Nibble) : Laws.RoundTrip.Statement (.checkDelay x) :=
  ⟨wellFormedWord_of_byte (familyOf_wordXNN _ _ _) (lastByteOf_wordXNN _ _ _) (by decide), familyOf_wordXNN _ _ _,
    (decode_familyF (opField_wordXNN _ _ _)).trans (decodeExtra_checkDelay _ _)⟩

theorem Laws.RoundTrip.waitForKey (x : Nibble) : Laws.RoundTrip.Statement (.waitForKey x) :=
  ⟨wellFormedWord_of_byte (familyOf_wordXNN _ _ _) (lastByteOf_wordXNN _ _ _) (by decide), familyOf_wordXNN _ _ _,
    (decode_familyF (opField_wordXNN _ _ _)).trans (decodeExtra_waitForKey _ _)⟩

theorem Laws.RoundTrip.setDelay (x : Nibble) : Laws.RoundTrip.Statement (.setDelay x) :=
  ⟨wellFormedWord_of_byte (familyOf_wordXNN _ _ _) (lastByteOf_wordXNN _ _ _) (by decide), familyOf_wordXNN _ _ _,
    (decode_familyF (opField_wordXNN _ _ _)).trans (decodeExtra_setDelay _ _)⟩

theorem Laws.RoundTrip.setBuzzer (x : Nibble) : Laws.RoundTrip.Statement (.setBuzzer x) :=
  ⟨wellFormedWord_of_byte (familyOf_wordXNN _ _ _) (lastByteOf_wordXNN _ _ _) (by decide), familyOf_wordXNN _ _ _,
    (decode_familyF (opField_wordXNN _ _ _)).trans (decodeExtra_setBuzzer _ _)⟩

theorem Laws.RoundTrip.incrIndex (x : Nibble) : Laws.RoundTrip.Statement (.incrIndex x) :=
  ⟨wellFormedWord_of_byte (familyOf_wordXNN _ _ _) (lastByteOf_wordXNN _ _ _) (by decide), familyOf_wordXNN _ _ _,
    (decode_familyF (opField_wordXNN _ _ _)).trans (decodeExtra_incrIndex _ _)⟩

theorem Laws.RoundTrip.setIndexHex (x : Nibble) : Laws.RoundTrip.Statement (.setIndexHex x) :=
  ⟨wellFormedWord_of_byte (familyOf_wordXNN _ _ _) (lastByteOf_wordXNN _ _ _) (by decide), familyOf_wordXNN _ _ _,
    (decode_familyF (opField_wordXNN _ _ _)).trans (decodeExtra_setIndexHex _ _)⟩

theorem Laws.RoundTrip.bcdReg (x : Nibble) : Laws.RoundTrip.Statement (.bcdReg x) :=
  ⟨wellFormedWord_of_byte (familyOf_wordXNN _ _ _) (lastByteOf_wordXNN _ _ _) (by decide), familyOf_wordXNN _ _ _,
    (decode_familyF (opField_wordXNN _ _ _)).trans (decodeExtra_bcdReg _ _)⟩

theorem Laws.RoundTrip.saveRegRange (x : Nibble) : Laws.RoundTrip.Statement (.saveRegRange x) :=
  ⟨wellFormedWord_of_byte (familyOf_wordXNN _ _ _) (lastByteOf_wordXNN _ _ _) (by decide), familyOf_wordXNN _ _ _,
    (decode_familyF (opField_wordXNN _ _ _)).trans (decodeExtra_saveRegRange _ _)⟩

theorem Laws.RoundTrip.loadRegRange (x : Nibble) : Laws.RoundTrip.Statement (.loadRegRange x) :=
  ⟨wellFormedWord_of_byte (familyOf_wordXNN _ _ _) (lastByteOf_wordXNN _ _ _) (by decide), familyOf_wordXNN _ _ _,
    (decode_familyF (opField_wordXNN _ _ _)).trans (decodeExtra_loadRegRange _ _)⟩

end Sys2Proof
end

