-- ==== Sys2Proof/Tests/Slice0.lean ====
section
/-! SUPPORT. Tests. Expected results come from spec/95_test_vectors.md (the V-… and S… numbers), from the encodings of
30_encoding.md R84 to R87 written out bit by bit, and from R90's list of illegal words. The witnesses at the end show that
the hypotheses of each statement are met, clause by clause, at the boundaries of their ranges. -/

namespace Sys2Proof.Tests

open Sys2Proof Sys2Proof.Machine Sys2Proof.Config

/-! ### Helpers -/

/-- The machine after construction, built with P_COMPAT = Legacy. -/
def legacy : State := { State.reset with compat := .legacy }

/-- The machine after construction, built with P_COMPAT = Modern. -/
def modern : State := { State.reset with compat := .modern }

/-- The state after one step on the word `w` placed at pc. -/
def stepOn (w : Nat) (s : State) : Option State :=
  match step (s.withFetchWord 16 w) with
  | .next t => some t
  | _ => none

/-- What `f` reads of the state after one step on `w`. -/
def see {α : Type} (f : State → α) (w : Nat) (s : State) : Option α := (stepOn w s).map f

/-- Bytes at an address. -/
def poke (s : State) (a : Nat) (bytes : List Byte) : State := s.setMem (s.mem.writeBytes a bytes)

/-- Two registers set. -/
def two (s : State) (x : Nibble) (a : Byte) (y : Nibble) (b : Byte) : State := (s.setReg x a).setReg y b

/-- A stack of the given depth. -/
def deep (n : Nat) : State := legacy.setStack (List.replicate n 0x0202)

/-! ### WellFormed: one ill-formed word for each check, which the check refuses (30_encoding.md R90) -/

theorem test_wf_fixed : illegalFixed 0x00E1 = true ∧ wellFormedWord 0x00E1 = false := by decide
theorem test_wf_skip_eq : illegalSkipEq 0x5121 = true ∧ wellFormedWord 0x5121 = false := by decide
theorem test_wf_math : illegalMath 0x800F = true ∧ wellFormedWord 0x800F = false := by decide
theorem test_wf_skip_ne : illegalSkipNe 0x912F = true ∧ wellFormedWord 0x912F = false := by decide
theorem test_wf_key : illegalKey 0xE09F = true ∧ wellFormedWord 0xE09F = false := by decide
theorem test_wf_extra : illegalExtra 0xF000 = true ∧ wellFormedWord 0xF000 = false := by decide
theorem test_wf_legal : wellFormedWord 0x00E0 = true ∧ wellFormedWord 0x800E = true ∧ wellFormedWord 0xFF65 = true := by decide

/-! ### Decoding: a word for every constructor, written out bit by bit (R84 to R87) -/

theorem test_decode_fixed :
    decode 0b0000000011100000 = .ok .clear ∧ decode 0b0000000011101110 = .ok .ret := by decide
theorem test_decode_jump_call :
    decode 0b0001000011100000 = .ok (.jump 0x0E0) ∧ decode 0b0010001100000001 = .ok (.call 0x301) := by decide
theorem test_decode_imm_skips :
    decode 0b0011010110000001 = .ok (.skipImmEq 5 0x81) ∧ decode 0b0100101000111100 = .ok (.skipImmNe 0xA 0x3C) := by decide
theorem test_decode_reg_skips :
    decode 0b0101000100100000 = .ok (.skipRegEq 1 2) ∧ decode 0b1001111000110000 = .ok (.skipRegNe 0xE 3) := by decide
theorem test_decode_imm_alu :
    decode 0b0110101001111111 = .ok (.regAssign 0xA 0x7F) ∧ decode 0b0111000111111111 = .ok (.regIncr 1 0xFF) := by decide
theorem test_decode_math_low :
    decode 0b1000000100100000 = .ok (.assign 1 2) ∧ decode 0b1000000100100001 = .ok (.or 1 2) ∧
    decode 0b1000000100100010 = .ok (.and 1 2) ∧ decode 0b1000000100100011 = .ok (.xor 1 2) := by decide
theorem test_decode_math_high :
    decode 0b1000101010110100 = .ok (.incrBy 0xA 0xB) ∧ decode 0b1000101010110101 = .ok (.decrBy 0xA 0xB) ∧
    decode 0b1000101010110110 = .ok (.rightShift 0xA 0xB) ∧ decode 0b1000101010110111 = .ok (.invDecrBy 0xA 0xB) ∧
    decode 0b1000101010111110 = .ok (.leftShift 0xA 0xB) := by decide
theorem test_decode_index_jump :
    decode 0b1010111111111111 = .ok (.setIndex 0xFFF) ∧ decode 0b1011000100100011 = .ok (.relJump 0x123) := by decide
theorem test_decode_random_draw :
    decode 0b1100001000001111 = .ok (.random 2 0x0F) ∧ decode 0b1101111011110011 = .ok (.draw 0xE 0xF 3) := by decide
theorem test_decode_key :
    decode 0b1110010110011110 = .ok (.keyPressed 5) ∧ decode 0b1110111110100001 = .ok (.keyNotPressed 0xF) := by decide
theorem test_decode_extra_timers :
    decode 0b1111010000000111 = .ok (.checkDelay 4) ∧ decode 0b1111000100001010 = .ok (.waitForKey 1) ∧
    decode 0b1111010000010101 = .ok (.setDelay 4) ∧ decode 0b1111010000011000 = .ok (.setBuzzer 4) := by decide
theorem test_decode_extra_index :
    decode 0b1111111100011110 = .ok (.incrIndex 0xF) ∧ decode 0b1111000000101001 = .ok (.setIndexHex 0) ∧
    decode 0b1111001000110011 = .ok (.bcdReg 2) ∧ decode 0b1111010101010101 = .ok (.saveRegRange 5) ∧
    decode 0b1111010101100101 = .ok (.loadRegRange 5) := by decide
/-- V-DEC-1, 3, 5, 8, 10, 12, 13, 16, 18. -/
theorem test_decode_errors :
    [0x0000, 0x00E1, 0x0123, 0x5121, 0x8008, 0x800F, 0x912F, 0xE09F, 0xF000].all
      (fun w => decide (decode w = .error (.illegalWord w))) = true := by decide
/-- The first byte is the high byte (20_memory.md R52). -/
theorem test_decode_bytes_order : decodeBytes [0x12, 0x34, 0x99] = .ok (.jump 0x234, [0x99]) := by decide
theorem test_decode_table_word : decodeTableWord 16 0xA2F0 = some (.setIndex 0x2F0) := by decide

/-! ### Control transfer (95_test_vectors.md 2.2) -/

/-- V-FLOW-2, and V-FLOW-1. -/
theorem test_ret : see (fun t => (t.pc, t.stack)) 0x00EE ((legacy.setStack [0x0202]).setPc 0x20C) = some (0x0202, []) := by decide
theorem test_ret_empty :
    see (fun t => (t.pc, t.stack, t.status)) 0x00EE legacy = some (0x200, [], .faulted .stackUnderflow) := by decide
/-- V-FLOW-3, V-FLOW-17. -/
theorem test_jump : see (·.pc) 0x1234 legacy = some 0x234 := by decide
theorem test_jump_last_byte :
    (stepOn 0x1FFF legacy).bind (fun t => match step t with | .next u => some (u.pc, u.status) | _ => none)
      = some (0xFFF, .faulted (.memoryBounds 0x1000)) := by decide
/-- V-FLOW-5 (S8), V-FLOW-7. -/
theorem test_call : see (fun t => (t.pc, t.stack)) 0x2234 (legacy.setPc 0x00C) = some (0x234, [0x00E]) := by decide
theorem test_call_full :
    see (fun t => (t.pc, t.stack.length, t.status)) 0x2300 (deep 16) = some (0x200, 16, .faulted .stackOverflow) := by decide
/-- V-FLOW-8, V-FLOW-9. -/
theorem test_skipImmEq_taken : see (·.pc) 0x3310 (legacy.setReg 3 0x10) = some 0x204 := by decide
theorem test_skipImmEq_not : see (·.pc) 0x3310 (legacy.setReg 3 0x11) = some 0x202 := by decide
/-- V-FLOW-10. -/
theorem test_skipImmNe_taken : see (·.pc) 0x4310 (legacy.setReg 3 0x11) = some 0x204 := by decide
theorem test_skipImmNe_not : see (·.pc) 0x4310 (legacy.setReg 3 0x10) = some 0x202 := by decide
/-- V-FLOW-11. -/
theorem test_skipRegEq_taken : see (·.pc) 0x5120 (two legacy 1 7 2 7) = some 0x204 := by decide
theorem test_skipRegEq_same : see (·.pc) 0x5110 (legacy.setReg 1 9) = some 0x204 := by decide
/-- V-FLOW-14. -/
theorem test_skipRegNe_taken : see (·.pc) 0x9120 (two legacy 1 7 2 8) = some 0x204 := by decide
theorem test_skipRegNe_same : see (·.pc) 0x9110 (legacy.setReg 1 9) = some 0x202 := by decide
/-- V-FLOW-12 (S11), V-FLOW-13: the sum goes past 0xFFF. -/
theorem test_relJump_modes :
    see (·.pc) 0xB210 (two legacy 0 4 2 2) = some 0x214 ∧ see (·.pc) 0xB210 (two modern 0 4 2 2) = some 0x212 := by decide
theorem test_relJump_unmasked : see (·.pc) 0xBFFF (modern.setReg 0xF 0xFF) = some 0x10FE := by decide

/-! ### ALU (95_test_vectors.md 2.3) -/

/-- V-ALU-1. -/
theorem test_regAssign : see (fun t => (t.reg 0, t.pc)) 0x603E legacy = some (0x3E, 0x202) := by decide
/-- V-ALU-2 with a wrap, V-ALU-3. -/
theorem test_regIncr : see (fun t => (t.reg 1, t.reg vf)) 0x71FF (two legacy 1 5 0xF 9) = some (4, 9) := by decide
theorem test_regIncr_vf : see (·.reg vf) 0x7F01 (legacy.setReg 0xF 0xFF) = some 0 := by decide
/-- V-ALU-4. -/
theorem test_assign : see (·.reg 1) 0x8120 (legacy.setReg 2 9) = some 9 := by decide
/-- V-ALU-5, 6, 7, 8: VF stays. -/
theorem test_or : see (fun t => (t.reg 1, t.reg vf)) 0x8121 ((two legacy 1 0x0F 2 0xF0).setReg 0xF 7) = some (0xFF, 7) := by decide
theorem test_and : see (fun t => (t.reg 1, t.reg vf)) 0x8122 ((two legacy 1 0x3C 2 0x0F).setReg 0xF 7) = some (0x0C, 7) := by decide
theorem test_xor : see (fun t => (t.reg 1, t.reg vf)) 0x8123 ((two legacy 1 0x3C 2 0x0F).setReg 0xF 7) = some (0x33, 7) := by decide
theorem test_xor_self : see (·.reg 1) 0x8113 (legacy.setReg 1 0x5A) = some 0 := by decide
/-- V-ALU-10 (S3), V-ALU-14: the flag is written last. -/
theorem test_incrBy : see (fun t => (t.reg 1, t.reg vf)) 0x8124 (two legacy 1 12 2 249) = some (5, 1) := by decide
theorem test_incrBy_vf : see (·.reg vf) 0x8F14 (two legacy 0xF 0x10 1 0xF0) = some 1 := by decide
/-- V-ALU-18: no borrow is strict; V-ALU-19: the result is written last. -/
theorem test_decrBy_equal : see (fun t => (t.reg 1, t.reg vf)) 0x8125 (two legacy 1 7 2 7) = some (0, 0) := by decide
theorem test_decrBy_vf : see (·.reg vf) 0x8F15 (two legacy 0xF 5 1 3) = some 2 := by decide
/-- V-ALU-20 (S6), V-ALU-21 (S7). -/
theorem test_invDecrBy : see (fun t => (t.reg 1, t.reg vf)) 0x8127 (two legacy 1 12 2 52) = some (40, 1) := by decide
theorem test_invDecrBy_wrap : see (fun t => (t.reg 1, t.reg vf)) 0x8127 (two legacy 1 60 2 52) = some (248, 0) := by decide
/-- V-ALU-23, V-ALU-25. -/
theorem test_rightShift_modes :
    see (fun t => (t.reg 1, t.reg vf)) 0x8126 (two legacy 1 5 2 0x80) = some (0x40, 0) ∧
    see (fun t => (t.reg 1, t.reg vf)) 0x8126 (two modern 1 5 2 0x80) = some (2, 1) := by decide
theorem test_rightShift_vf :
    see (·.reg vf) 0x8F06 (legacy.setReg 0xF 3) = some 0 ∧ see (·.reg vf) 0x8F06 (modern.setReg 0xF 3) = some 1 := by decide
/-- V-ALU-24, V-ALU-26. -/
theorem test_leftShift_modes :
    see (fun t => (t.reg 1, t.reg vf)) 0x812E (two legacy 1 0x81 2 0x40) = some (0x80, 0) ∧
    see (fun t => (t.reg 1, t.reg vf)) 0x812E (two modern 1 0x81 2 0x40) = some (2, 1) := by decide
theorem test_leftShift_vf : see (·.reg vf) 0x8FFE (legacy.setReg 0xF 0x81) = some 2 := by decide
/-- V-ALU-27 and V-ALU-29 for every draw; the next Random takes the next one. -/
theorem test_random : see (fun t => (t.reg 2, t.draws)) 0xC20F legacy = some (randomDraw 0 &&& 0x0F, 1) := rfl

/-! ### Index register and memory (95_test_vectors.md 2.4) -/

/-- V-MEM-1. -/
theorem test_setIndex : see (fun t => (t.i, t.pc)) 0xA300 legacy = some (0x300, 0x202) := by decide
/-- V-MEM-4: no flag at 0x1000; V-MEM-5: VF is both source and flag. -/
theorem test_incrIndex_4096 :
    see (fun t => (t.i, t.reg vf)) 0xF11E ((two legacy 1 1 0xF 9).setIndex 0x0FFF) = some (0x1000, 0) := by decide
theorem test_incrIndex_wrap :
    see (fun t => (t.i, t.reg vf)) 0xFF1E ((legacy.setReg 0xF 0x80).setIndex 0xFF80) = some (0, 1) := by decide
/-- V-MEM-6, V-MEM-8. -/
theorem test_setIndexHex : see (·.i) 0xF329 (legacy.setReg 3 0x0A) = some 50 := by decide
theorem test_setIndexHex_whole_byte : see (·.i) 0xF329 (legacy.setReg 3 0xFF) = some 0x4FB := by decide
/-- V-MEM-9, V-MEM-12. -/
theorem test_bcdReg :
    see (fun t => (t.byte 0x300, t.byte 0x301, t.byte 0x302, t.i)) 0xF233 ((legacy.setReg 2 254).setIndex 0x300)
      = some (2, 5, 4, 0x300) := by decide
theorem test_bcdReg_bounds :
    see (fun t => (t.byte 0xFFE, t.pc, t.status)) 0xF233 ((legacy.setReg 2 254).setIndex 0xFFE)
      = some (0, 0x200, .faulted (.memoryBounds 0x1000)) := by decide
/-- V-MEM-13, V-MEM-16: no byte is written. -/
theorem test_saveRegRange :
    see (fun t => (t.byte 0x3FF, t.byte 0x400, t.byte 0x401, t.byte 0x402, t.byte 0x403, t.i)) 0xF255
      ((((two legacy 0 1 1 2).setReg 2 3).setReg 3 4).setIndex 0x400) = some (0, 1, 2, 3, 0, 0x400) := by decide
theorem test_saveRegRange_bounds :
    see (fun t => (t.byte 0xFFA, t.status)) 0xF655 ((legacy.setReg 0 9).setIndex 0xFFA)
      = some (0, .faulted (.memoryBounds 0x1000)) := by decide
/-- V-MEM-20 (the font's glyph 0), V-MEM-19. -/
theorem test_loadRegRange :
    see (fun t => (t.reg 0, t.reg 1, t.reg 3, t.reg 4, t.reg 5)) 0xF465 legacy
      = some (0xF0, 0x90, 0x90, 0xF0, 0) := by decide
theorem test_loadRegRange_bounds :
    see (·.status) 0xF065 (legacy.setIndex 0x1234) = some (.faulted (.memoryBounds 0x1234)) := by decide

/-! ### Display (95_test_vectors.md 2.5) -/

/-- V-DISP-1. -/
theorem test_clear :
    see (fun t => (t.pixel 3 4, t.reg vf)) 0x00E0 ((legacy.setFb (legacy.fb.setPixel 3 4 true)).setReg 0xF 7)
      = some (false, 7) := by decide
/-- V-DISP-8: one pixel on, one off, a collision. -/
theorem test_draw_collision :
    see (fun t => (t.pixel 0 0, t.pixel 1 0, t.pixel 2 0, t.reg vf)) 0xD011
      (poke ((legacy.setFb (legacy.fb.setPixel 1 0 true)).setIndex 0x300) 0x300 [0xC0])
      = some (true, false, false, 1) := by decide
/-- V-DISP-7: the origin wraps once, the rest is clipped. -/
theorem test_draw_clip :
    see (fun t => (t.pixel 62 1, t.pixel 63 1, t.pixel 62 2, t.pixel 0 1, t.pixel 1 2, t.reg vf)) 0xD012
      (poke ((two legacy 0 0x7E 1 0x21).setIndex 0x300) 0x300 [0xF0, 0x90])
      = some (true, true, true, false, false, 0) := by decide

/-! ### Keys and timers (95_test_vectors.md 2.6) -/

/-- V-KEY-1, V-KEY-2. -/
theorem test_keyPressed_down : see (·.pc) 0xE59E ((legacy.setReg 5 5).setKeyDown 5 true) = some 0x204 := by decide
theorem test_keyPressed_up : see (·.pc) 0xE59E (legacy.setReg 5 5) = some 0x202 := by decide
/-- V-KEY-3, V-KEY-4: only the low nibble. -/
theorem test_keyNotPressed_up : see (·.pc) 0xE5A1 (legacy.setReg 5 0x15) = some 0x204 := by decide
theorem test_keyNotPressed_down : see (·.pc) 0xE5A1 ((legacy.setReg 5 0x15).setKeyDown 5 true) = some 0x202 := by decide
/-- V-KEY-5, V-KEY-6. -/
theorem test_waitForKey_spins : see (·.pc) 0xF00A ((legacy.setReg 0 5).setPc 0x202) = some 0x202 := by decide
theorem test_waitForKey_passes :
    see (fun t => (t.pc, t.reg 0)) 0xF00A (((legacy.setReg 0 5).setPc 0x202).setKeyDown 5 true) = some (0x204, 5) := by decide
/-- V-KEY-8, V-KEY-9, V-KEY-10. -/
theorem test_checkDelay : see (·.reg 4) 0xF407 (legacy.setDelay 0x3C) = some 0x3C := by decide
theorem test_setDelay : see (fun t => (t.dt, t.st)) 0xF415 (legacy.setReg 4 0x3C) = some (0x3C, 0) := by decide
theorem test_setBuzzer : see (fun t => (t.dt, t.st)) 0xF418 (legacy.setReg 4 0x10) = some (0, 0x10) := by decide
/-- V-KEY-11. -/
theorem test_tick :
    (tickTimers (legacy.setDelay 2)).dt = 1 ∧ (tickTimers (tickTimers (tickTimers (legacy.setDelay 2)))).dt = 0 ∧
    (tickTimers (legacy.setDelay 2)).st = 0 := by decide
/-- V-KEY-13, V-KEY-14. -/
theorem test_setKey :
    (match setKey 7 true legacy with | .next t => some (t.keyDown 7, t.keyDown 6) | _ => none) = some (true, false) ∧
    setKey 16 true legacy = .refused (.keyIndexOutOfRange 16) := ⟨by decide, rfl⟩

/-! ### Cycle, faults and loading (95_test_vectors.md 2.7) -/

/-- V-CYC-2, V-CYC-3: the fetch records pc itself. -/
theorem test_fetch_past_the_end :
    (match step (legacy.setPc 0x1000) with | .next t => some t.status | _ => none) = some (.faulted (.memoryBounds 0x1000)) ∧
    (match step (legacy.setPc 0x10FE) with | .next t => some t.status | _ => none)
      = some (.faulted (.memoryBounds 0x10FE)) := by decide
/-- V-CYC-4: an odd pc. -/
theorem test_odd_pc : see (fun t => (t.reg 0, t.pc)) 0x6007 (legacy.setPc 0x201) = some (7, 0x203) := by decide
/-- V-CYC-5. -/
theorem test_faulted_is_refused :
    step (legacy.withFault .stackUnderflow) = .refused (.stepWhileFaulted .stackUnderflow) := rfl
/-- V-CYC-7. -/
theorem test_decode_fault_commits_nothing :
    see (fun t => (t.stack, t.reg 1, t.i, t.pc, t.status)) 0x00E1 (((legacy.setStack [0x300]).setReg 1 9).setIndex 0x123)
      = some ([0x300], 9, 0x123, 0x200, .faulted (.decodeError 0x00E1)) := by decide
/-- V-CYC-8. -/
theorem test_load_too_large : loadProgram (List.replicate 3585 0) legacy = .error .tooLarge :=
  if_pos (by rw [List.length_replicate]; decide)
/-- V-CYC-10: an empty image leaves the word 0x0000 at pc. -/
theorem test_empty_image :
    (match loadProgram [] legacy with
      | .ok t => (match step t with | .next u => some (u.pc, u.status) | _ => none)
      | .error _ => none) = some (0x200, .faulted (.decodeError 0)) := by decide

/-! ### Memory keeps its canonical form: a written zero is not listed -/

theorem test_memory_canonical :
    (poke (poke legacy 0x300 [1, 2]) 0x300 [0, 2]).mem = [(0x301, 2)] ∧
    (poke (poke legacy 0x301 [2]) 0x300 [1]).mem = [(0x300, 1), (0x301, 2)] := by decide

/-! ### Witnesses: the hypotheses of the statements are met -/

theorem witness_reencoding : decode 0x6A7F = .ok (.regAssign 0xA 0x7F) := by decide
theorem witness_decode_errors :
    illegalWord 0x00E1 = true ∧ illegalWord 0x00E0 = false ∧ illegalWord 0x00EF = true ∧ illegalWord 0xFF65 = false := by decide
theorem witness_step_runs :
    (poke (legacy.setPc 4094) 4094 [0x61, 0x05]).status = .running ∧ (4094#16).toNat + 1 < 4096 ∧
    decode ((poke (legacy.setPc 4094) 4094 [0x61, 0x05]).byte 4094 ++ (poke (legacy.setPc 4094) 4094 [0x61, 0x05]).byte 4095)
      = .ok (.regAssign 1 5) := by decide
theorem witness_fetch_outside :
    (legacy.setPc 4096).status = .running ∧ 4096 ≤ (legacy.setPc 4096).pc.toNat ∧ (legacy.setPc 4095).pc.toNat = 4095 := by decide
theorem witness_illegal_word :
    legacy.status = .running ∧ legacy.fetch = .ok 0 ∧ illegalWord 0 = true := by decide
theorem witness_faulted : (legacy.withFault .stackOverflow).status = .faulted .stackOverflow := by decide
theorem witness_faulting_step :
    ∃ t, legacy.status = .running ∧ step legacy = .next t ∧ t.status = .faulted (.decodeError 0) := ⟨_, rfl, rfl, rfl⟩
/-- The four cases of `OnlyTheListedInstructionsFault`, each met. -/
theorem witness_only_listed :
    legacy.status = .running ∧ (dataRange (.bcdReg 0) (legacy.setIndex 4093)).1 + 3 ≤ 4096 ∧ legacy.stack = [] ∧
    16 ≤ (deep 16).stack.length ∧ 4096 < (dataRange (.bcdReg 0) (legacy.setIndex 4094)).1 + 3 ∧
    (dataRange (.draw 0 1 0) (legacy.setIndex 0xFFFF)).2 = 0 := by decide

/-- The machine as built meets the invariant. -/
theorem legacy_inv : legacy.Inv where
  memWf := ⟨List.Pairwise.nil, nofun⟩
  stackDepth := by decide
  stackEntries := nofun
  pcBound := by decide
/-- A state on the edge of the invariant: 16 return addresses of 4096, pc at 0x10FE. -/
theorem witness_invariant_edge : ((legacy.setStack (List.replicate 16 0x1000)).setPc 0x10FE).Inv where
  memWf := legacy_inv.memWf
  stackDepth := by decide
  stackEntries := fun a h => by rw [List.eq_of_mem_replicate (n := 16) h]; decide
  pcBound := by decide
theorem witness_step_keeps : ∃ t, legacy.Inv ∧ step legacy = .next t := ⟨_, legacy_inv, rfl⟩
/-- A session with a machine built in Legacy mode. -/
def session : Session := { core := legacy, phase := .built }
/-- Each host action has an answer in some session, from a core that meets the invariant. -/
theorem witness_host_actions :
    session.core.Inv ∧ (∃ r, session.act (.loadProgram [0x12, 0x00]) = .next r) ∧ (∃ r, session.act .step = .next r) ∧
    (∃ r, session.act .tickTimers = .next r) ∧ (∃ r, session.act (.setKey 15 true) = .next r) ∧
    (∃ r, session.act .framebufferSnapshot = .next r) :=
  ⟨legacy_inv, ⟨_, rfl⟩, ⟨_, rfl⟩, ⟨_, rfl⟩, ⟨_, rfl⟩, ⟨_, rfl⟩⟩

theorem witness_call : (deep 15).stack.length < stackCapacity ∧ stackCapacity ≤ (deep 16).stack.length := by decide
theorem witness_return :
    (deep 1).stack = (0x0202 : Word) :: [] ∧ (deep 16).stack = (0x0202 : Word) :: List.replicate 15 0x0202 ∧
    legacy.stack = [] := by decide
theorem witness_relJump :
    legacy.compat = .legacy ∧ modern.compat = .modern ∧ (15#4).toNat = (0xF00#12).toNat / 256 ∧
    (0#4).toNat = (0x0FF#12).toNat / 256 := by decide
/-- A core parked at 0x200. -/
def atPark : State := poke legacy 0x200 [0x12, 0x00]
theorem witness_parked : atPark.parked := ⟨rfl, 0x1200, 0x200, by decide, by decide, by decide⟩
theorem witness_sub_order :
    ((0 : Nibble) ≠ vf ∨ pVfWriteOrder = .sourceOrder) ∧ ((0 : Nibble) ≠ vf ∨ pVfWriteOrder = .flagLast) ∧
    (vf ≠ vf ∨ pVfWriteOrder = .sourceOrder) := by decide
theorem witness_shift_source :
    (0x80 : Byte) = (if (two legacy 1 5 2 0x80).compat = .legacy then (two legacy 1 5 2 0x80).reg 2 else (two legacy 1 5 2 0x80).reg 1) ∧
    (5 : Byte) = (if (two modern 1 5 2 0x80).compat = .legacy then (two modern 1 5 2 0x80).reg 2 else (two modern 1 5 2 0x80).reg 1) := by
  decide
theorem witness_random_mask : (0x0F#8).getLsbD 4 = false ∧ (0#8).getLsbD 0 = false := by decide
theorem witness_reset_values :
    (15 < 16 ∧ 4 < 5) ∧ State.reset.byte 79 = 0x80 ∧ State.reset.byte 80 = 0 := by decide
theorem witness_bcd : effAddr (legacy.setIndex 4093) 2 < 4096 ∧ 4096 ≤ effAddr (legacy.setIndex 4094) 2 := by decide
theorem witness_range :
    effAddr (legacy.setIndex 4080) (15#4).toNat < 4096 ∧ 4096 ≤ effAddr (legacy.setIndex 4081) (15#4).toNat ∧
    effAddr (legacy.setIndex 4095) (0#4).toNat < 4096 ∧ 4096 ≤ effAddr (legacy.setIndex 4096) (0#4).toNat ∧
    ((15 : Nibble) ≤ 15 ∧ (0 : Nibble) ≤ 0 ∧ (14 : Nibble) < 15) := by decide
theorem witness_fetch_after_store :
    (effAddr (legacy.setIndex 4093) 2 < 4096 ∧ effAddr (legacy.setIndex 4095) (0#4).toNat < 4096) ∧
    (4094#16).toNat + 1 < 4096 := by decide
/-- A fetch of one old byte and one stored byte: BcdReg stores the hundreds of 254 at 0x301, after an old 0x12 at 0x300. -/
theorem test_fetch_partly_stored :
    (see (fun t => match State.fetch { t with pc := 0x300 } with | .ok w => some w | _ => none) 0xF233
      (poke ((legacy.setReg 2 254).setIndex 0x301) 0x300 [0x12, 0x34])).join = some 0x1202 := by decide
theorem witness_draw :
    (0 : Nibble) = 0 ∧ effAddr (legacy.setIndex 4095) ((1#4).toNat - 1) < 4096 ∧
    ((2 : Nibble) ≠ 0 ∧ 4096 ≤ effAddr (legacy.setIndex 4095) ((2#4).toNat - 1)) ∧
    ((1 : Nibble) ≠ 0 ∧ 4096 ≤ effAddr (legacy.setIndex 4096) ((1#4).toNat - 1)) ∧ pDrawCollision = true ∧
    (63 < 64 ∧ 31 < 32) := by decide
/-- Drawing twice: after the first Draw of V-DISP-4's sprite the state itself meets the hypotheses on `s'`. -/
theorem witness_draw_twice :
    ∃ t, exec (.draw 0 1 1) (poke ((two legacy 0 60 1 0).setIndex 0x300) 0x300 [0xFF]) = .next t ∧
      t.reg 0 = 60 ∧ t.reg 1 = 0 ∧ t.i = 0x300 ∧ t.byte (effAddr t 0) = 0xFF ∧ t.pixel 63 0 = true ∧ t.pixel 0 0 = false :=
  ⟨_, rfl, by decide, by decide, by decide, by decide, by decide, by decide⟩
theorem witness_keys :
    (5#4).toNat = ((legacy.setReg 5 0x15).reg 5).toNat % 16 ∧ (legacy.setReg 5 0x15).keyDown 5 = false ∧
    ((legacy.setReg 5 0x15).setKeyDown 5 true).keyDown 5 = true ∧
    (15#4).toNat = ((legacy.setReg 5 0xFF).reg 5).toNat % 16 := by decide
/-- A core at a WaitForKey V0 whose key, 5, is up. -/
def waiting : State := poke (legacy.setReg 0 5) 0x200 [0xF0, 0x0A]
theorem witness_spin :
    waiting.status = .running ∧ waiting.fetch = .ok 0xF00A ∧ decode 0xF00A = .ok (.waitForKey 0) ∧
    (5#4).toNat = (waiting.reg 0).toNat % 16 ∧ waiting.keyDown 5 = false ∧ (3 : Nibble) ≠ 5 := by decide
theorem witness_setKey : (15#4).toNat = 15 ∧ (0#4).toNat = 0 ∧ 16 ≤ 16 := by decide
theorem witness_load :
    session.phase = .built ∧ (List.replicate 3584 (0x11 : Byte)).length ≤ 3584 ∧
    3584 < (List.replicate 3585 (0x11 : Byte)).length ∧ ({ session with phase := .loaded } : Session).phase ≠ .built ∧
    ({ session with phase := .stepped } : Session).phase ≠ .built ∧ ([0x12, 0x00] : List Byte)[1]? = some 0x00 := by
  refine ⟨rfl, ?_, ?_, by decide, by decide, rfl⟩
  · rw [List.length_replicate]
  · rw [List.length_replicate]; decide
theorem witness_host_step : session.core.status = .running ∧ ({ session with core := atPark } : Session).core.status = .running := by
  decide
theorem witness_host_compat : ∃ σ' r, session.act .tickTimers = .next (σ', r) := ⟨_, _, rfl⟩
theorem witness_host_keypad :
    (∃ σ' r, session.act .step = .next (σ', r)) ∧ ∀ index pressed, HostAction.step ≠ .setKey index pressed :=
  ⟨⟨_, _, rfl⟩, fun _ _ h => nomatch h⟩
theorem witness_incrBy :
    (∃ t, exec (.incrBy 1 2) (two legacy 1 12 2 249) = .next t) ∧ (1 : Nibble) ≠ vf := ⟨⟨_, rfl⟩, by decide⟩
theorem witness_exec_writes : ∃ t, exec (.incrBy 1 2) (two legacy 1 12 2 249) = .next t := ⟨_, rfl⟩
theorem witness_pc_after :
    ∃ t, (legacy.setPc 4094).status = .running ∧ (legacy.setPc 4094).pc.toNat + 1 < 4096 ∧
      exec (.skipImmEq 0 0) (legacy.setPc 4094) = .next t ∧ t.status = .running ∧ t.pc = 4098 :=
  ⟨_, rfl, by decide, rfl, by decide, by decide⟩
theorem witness_not_key : ∀ x, Instr.clear ≠ .keyPressed x ∧ Instr.clear ≠ .keyNotPressed x ∧ Instr.clear ≠ .waitForKey x :=
  fun _ => ⟨nofun, nofun, nofun⟩
theorem witness_not_buzzer :
    (∃ t, exec .clear legacy = .next t) ∧ ∀ x, Instr.clear ≠ .setBuzzer x := ⟨⟨_, rfl⟩, fun _ => nofun⟩
theorem witness_buzzer : (∃ t, exec (.setBuzzer 4) legacy = .next t) ∧ ∃ x, Instr.setBuzzer 4 = .setBuzzer x :=
  ⟨⟨_, rfl⟩, 4, rfl⟩
theorem witness_not_compat :
    ∀ x y nnn, Instr.clear ≠ .rightShift x y ∧ Instr.clear ≠ .leftShift x y ∧ Instr.clear ≠ .relJump nnn :=
  fun _ _ _ => ⟨nofun, nofun, nofun⟩

end Sys2Proof.Tests
end

namespace Sys2Proof.Machine

open Sys2Proof Sys2Proof.Config

/-! ## Frames: what a transition leaves unchanged -/

/-- `FrameExcept`, and memory as a list (not only byte by byte) unless some byte is touched: so a frame also says when the
canonical form cannot have changed. -/
structure Leaves (touched : Component → Prop) (s t : State) : Prop where
  frame : FrameExcept touched s t
  mem : (∀ a, ¬ touched (.byte a)) → t.mem = s.mem

theorem Component.agrees_trans {c : Component} {s t u : State} (h : c.agrees s t) (h' : c.agrees t u) :
    c.agrees s u := by
  cases c <;> exact Eq.trans h' h

/-! ### One rule per state operation: a write keeps every frame that touches what it writes -/

namespace Leaves

variable {P : Component → Prop} {s t u : State}

theorem refl : Leaves P s s where
  frame c _ := by cases c <;> rfl
  mem _ := rfl

/-- A further write that leaves memory alone. -/
theorem andThen (h : Leaves P s t) (hf : ∀ c, ¬ P c → c.agrees t u) (hm : u.mem = t.mem) : Leaves P s u where
  frame c hc := Component.agrees_trans (h.frame c hc) (hf c hc)
  mem hb := hm.trans (h.mem hb)

theorem setReg (h : Leaves P s t) {x : Nibble} {b : Byte} (hp : P (.reg x)) : Leaves P s (t.setReg x b) := by
  refine h.andThen (fun c hc => ?_) rfl
  cases c with
  | reg r => exact State.reg_setReg_of_ne _ _ (by rintro rfl; exact hc hp)
  | _ => rfl

theorem setIndex (h : Leaves P s t) {w : Word} (hp : P .index) : Leaves P s (t.setIndex w) := by
  refine h.andThen (fun c hc => ?_) rfl
  cases c with
  | index => exact absurd hp hc
  | _ => rfl

theorem setPc (h : Leaves P s t) {w : Word} (hp : P .pc) : Leaves P s (t.setPc w) := by
  refine h.andThen (fun c hc => ?_) rfl
  cases c with
  | pc => exact absurd hp hc
  | _ => rfl

theorem setStack (h : Leaves P s t) {l : List Word} (hp : P .stack) : Leaves P s (t.setStack l) := by
  refine h.andThen (fun c hc => ?_) rfl
  cases c with
  | stack => exact absurd hp hc
  | _ => rfl

theorem setDelay (h : Leaves P s t) {b : Byte} (hp : P .delay) : Leaves P s (t.setDelay b) := by
  refine h.andThen (fun c hc => ?_) rfl
  cases c with
  | delay => exact absurd hp hc
  | _ => rfl

theorem setSound (h : Leaves P s t) {b : Byte} (hp : P .sound) : Leaves P s (t.setSound b) := by
  refine h.andThen (fun c hc => ?_) rfl
  cases c with
  | sound => exact absurd hp hc
  | _ => rfl

theorem setFb (h : Leaves P s t) {g : Framebuffer} (hp : ∀ px py, P (.pixel px py)) : Leaves P s (t.setFb g) := by
  refine h.andThen (fun c hc => ?_) rfl
  cases c with
  | pixel px py => exact absurd (hp px py) hc
  | _ => rfl

theorem countDraw (h : Leaves P s t) (hp : P .draws) : Leaves P s t.countDraw := by
  refine h.andThen (fun c hc => ?_) rfl
  cases c with
  | draws => exact absurd hp hc
  | _ => rfl

theorem withFault (h : Leaves P s t) {f : Fault} (hp : P .status) : Leaves P s (t.withFault f) := by
  refine h.andThen (fun c hc => ?_) rfl
  cases c with
  | status => exact absurd hp hc
  | _ => rfl

theorem advance (h : Leaves P s t) (hp : P .pc) : Leaves P s t.advance := h.setPc hp

/-- A store of at least one byte, all of them touched. -/
theorem setMem_writeBytes (h : Leaves P s t) {a : Nat} {bytes : List Byte} (hlen : 0 < bytes.length)
    (hp : ∀ k, k < bytes.length → P (.byte (a + k))) : Leaves P s (t.setMem (t.mem.writeBytes a bytes)) where
  frame c hc := by
    refine Component.agrees_trans (h.frame c hc) ?_
    cases c with
    | byte a' =>
      have houtside : ¬ (a ≤ a' ∧ a' < a + bytes.length) := by
        rintro ⟨hle, hlt⟩
        have := hp (a' - a) (by omega)
        rw [Nat.add_sub_cancel' hle] at this
        exact hc this
      exact (Memory.read_writeBytes _ _ _ _).trans (if_neg houtside)
    | _ => rfl
  mem hb := absurd (hp 0 hlen) (hb _)

theorem writeResultThenFlag (h : Leaves P s t) {x : Nibble} {b f : Byte} (hx : P (.reg x)) (hv : P (.reg vf)) :
    Leaves P s (t.writeResultThenFlag x b f) := (h.setReg hx).setReg hv

theorem writeFlagThenResult (h : Leaves P s t) {x : Nibble} {b f : Byte} (hx : P (.reg x)) (hv : P (.reg vf)) :
    Leaves P s (t.writeFlagThenResult x b f) := by
  unfold State.writeFlagThenResult
  split
  · exact (h.setReg hv).setReg hx
  · exact h.writeResultThenFlag hx hv

theorem writeCollision (h : Leaves P s t) {e : Bool} (hv : P (.reg vf)) : Leaves P s (t.writeCollision e) := by
  unfold State.writeCollision
  split
  · exact h.setReg hv
  · exact h

theorem loadRegs (h : Leaves P s t) {base n : Nat} (hp : ∀ k, k < n → P (.reg (BitVec.ofNat 4 k))) :
    Leaves P s (t.loadRegs base n) := by
  induction n with
  | zero => exact h
  | succ n ih =>
    rw [State.loadRegs_succ]
    exact (ih fun k hk => hp k (by omega)).setReg (hp n (by omega))

end Leaves

/-! ## What a completed or faulting instruction looks like -/

theorem skipIf_next {taken : Bool} {s t : State} (h : skipIf taken s = .next t) :
    t = s.setPc (if taken then s.pc + 4 else s.pc + 2) := by
  rw [skipIf_eq] at h
  cases h
  rfl

/-- A guarded access that answers has completed inside memory or taken the bounds fault. -/
theorem guardRange_next {base count : Nat} {s u t : State} (h : guardRange base count s (.next u) = .next t) :
    ((count = 0 ∨ base + count ≤ memSize) ∧ t = u) ∨ ∃ f, t = s.withFault f := by
  rcases guardRange_cases base count s (.next u) with ⟨hfit, hg⟩ | ⟨-, -, hg⟩ <;> rw [hg] at h <;> cases h
  · exact .inl ⟨hfit, rfl⟩
  · exact .inr ⟨_, rfl⟩

theorem execRet_next {s t : State} (h : execRet s = .next t) :
    (∃ top rest, s.stack = top :: rest ∧ t = (s.advance.setStack rest).setPc top) ∨ ∃ f, t = s.withFault f := by
  unfold execRet at h
  split at h <;> cases h
  · exact .inr ⟨_, rfl⟩
  · exact .inl ⟨_, _, ‹_›, rfl⟩

theorem execCall_next {nnn : Imm12} {s t : State} (h : execCall nnn s = .next t) :
    (s.stack.length < stackCapacity ∧ t = (s.advance.setStack ((s.pc + 2) :: s.stack)).setPc (immAddr nnn)) ∨
      ∃ f, t = s.withFault f := by
  unfold execCall at h
  split at h <;> cases h
  · exact .inr ⟨_, rfl⟩
  · exact .inl ⟨by omega, rfl⟩

theorem execWaitForKey_next {x : Nibble} {s t : State} (h : execWaitForKey x s = .next t) :
    t = s.setPc (if s.keyDown (keyIndex s x) then s.pc + 2 else s.pc) := by
  unfold execWaitForKey at h
  split at h <;> rename_i hk <;> cases h
  · rw [if_pos hk]; rfl
  · rw [if_neg hk, State.advance_pc, BitVec.add_sub_cancel]; rfl

theorem bcdDigits_length (b : Byte) : (bcdDigits b).length = 3 := rfl

/-! ## O53: each instruction writes only its own -/

/-- Over all instructions: nothing is written but pc and what `mayWrite` gives the instruction. -/
theorem exec_leaves {i : Instr} {s t : State} (h : exec i s = .next t) :
    Leaves (fun c => c = .pc ∨ mayWrite i s c) s t := by
  have adv : Leaves (fun c => c = .pc ∨ mayWrite i s c) s s.advance := Leaves.refl.advance (.inl rfl)
  cases i with
  | clear => cases h; exact adv.setFb fun px py => .inr ⟨px, py, rfl⟩
  | ret =>
    rcases execRet_next h with ⟨top, rest, -, rfl⟩ | ⟨f, rfl⟩
    · exact (adv.setStack (.inr (.inl rfl))).setPc (.inl rfl)
    · exact Leaves.refl.withFault (.inr (.inr rfl))
  | call nnn =>
    rcases execCall_next h with ⟨-, rfl⟩ | ⟨f, rfl⟩
    · exact (adv.setStack (.inr (.inl rfl))).setPc (.inl rfl)
    · exact Leaves.refl.withFault (.inr (.inr rfl))
  | jump | relJump => cases h; exact adv.setPc (.inl rfl)
  | skipImmEq | skipImmNe | skipRegEq | skipRegNe | keyPressed | keyNotPressed =>
    obtain rfl := skipIf_next h
    exact Leaves.refl.setPc (.inl rfl)
  | waitForKey x =>
    obtain rfl := execWaitForKey_next h
    exact Leaves.refl.setPc (.inl rfl)
  | regAssign | regIncr | assign | or | and | xor | checkDelay => cases h; exact adv.setReg (.inr rfl)
  | random => cases h; exact (adv.countDraw (.inr (.inr rfl))).setReg (.inr (.inl rfl))
  | incrBy => cases h; exact adv.writeResultThenFlag (.inr (.inl rfl)) (.inr (.inr rfl))
  | decrBy | invDecrBy | rightShift | leftShift =>
    cases h
    exact adv.writeFlagThenResult (.inr (.inl rfl)) (.inr (.inr rfl))
  | setIndex | setIndexHex => cases h; exact adv.setIndex (.inr rfl)
  | incrIndex => cases h; exact (adv.setIndex (.inr (.inl rfl))).setReg (.inr (.inr rfl))
  | setDelay => cases h; exact adv.setDelay (.inr rfl)
  | setBuzzer => cases h; exact adv.setSound (.inr rfl)
  | draw x y n =>
    rcases guardRange_next h with ⟨-, rfl⟩ | ⟨f, rfl⟩
    · exact (adv.setFb fun px py => .inr (.inl ⟨px, py, rfl⟩)).writeCollision (.inr (.inr (.inl rfl)))
    · exact Leaves.refl.withFault (.inr (.inr (.inr rfl)))
  | bcdReg x =>
    rcases guardRange_next h with ⟨-, rfl⟩ | ⟨f, rfl⟩
    · exact adv.setMem_writeBytes (by simp [bcdDigits_length]) fun k hk => .inr (.inl ⟨k, hk, rfl⟩)
    · exact Leaves.refl.withFault (.inr (.inr rfl))
  | saveRegRange x =>
    rcases guardRange_next h with ⟨-, rfl⟩ | ⟨f, rfl⟩
    · refine adv.setMem_writeBytes (by simp) fun k hk => .inr (.inl ⟨k, ?_, rfl⟩)
      rw [State.firstRegs_length] at hk
      omega
    · exact Leaves.refl.withFault (.inr (.inr rfl))
  | loadRegRange x =>
    rcases guardRange_next h with ⟨-, rfl⟩ | ⟨f, rfl⟩
    · refine adv.loadRegs fun k hk => .inr (.inl ⟨_, ?_, rfl⟩)
      rw [BitVec.le_def, BitVec.toNat_ofNat]
      have := Nat.mod_le k (2 ^ 4)
      omega
    · exact Leaves.refl.withFault (.inr (.inr rfl))

/-- Settles O53, by the frame rule of each write an instruction is made of. -/
theorem eachInstructionWritesOnlyItsOwn : Obligations.EachInstructionWritesOnlyItsOwn :=
  fun _ _ _ h => (exec_leaves h).frame

/-! ## The step, and O51 and O52: compat and the keypad -/

/-- A step that answers took a fault or ran an instruction fetched inside memory. -/
theorem step_next {s t : State} (h : step s = .next t) :
    (∃ f, t = s.withFault f) ∨ (s.status = .running ∧ s.pc.toNat + 1 < 4096 ∧ ∃ i, exec i s = .next t) := by
  rcases step_cases s with ⟨f, -, hs⟩ | ⟨-, f, -, hs⟩ | ⟨-, w, e, -, -, hs⟩ | ⟨hrun, w, i, hf, -, hs⟩ <;> rw [hs] at h
  · cases h
  · cases h; exact .inl ⟨f, rfl⟩
  · cases h; exact .inl ⟨.decodeError w, rfl⟩
  · exact .inr ⟨hrun, (State.fetch_ok hf).1, i, h⟩

theorem not_mayWrite_compat (i : Instr) (s : State) : ¬ mayWrite i s .compat := by cases i <;> simp [mayWrite]

theorem not_mayWrite_key (i : Instr) (s : State) (k : Nibble) : ¬ mayWrite i s (.key k) := by
  cases i <;> simp [mayWrite]

theorem exec_compat {i : Instr} {s t : State} (h : exec i s = .next t) : t.compat = s.compat :=
  (exec_leaves h).frame .compat (by simp [not_mayWrite_compat])

theorem State.key_ext {s t : State} (h : ∀ k, t.keyDown k = s.keyDown k) : t.key = s.key := by
  apply Vector.ext
  intro k hk
  simpa [State.keyDown, Nat.mod_eq_of_lt hk] using h (BitVec.ofNat 4 k)

theorem exec_key {i : Instr} {s t : State} (h : exec i s = .next t) : t.key = s.key :=
  State.key_ext fun k => (exec_leaves h).frame (.key k) (by simp [not_mayWrite_key])

theorem step_compat {s t : State} (h : step s = .next t) : t.compat = s.compat := by
  rcases step_next h with ⟨f, rfl⟩ | ⟨-, -, i, hi⟩
  · rfl
  · exact exec_compat hi

theorem step_key {s t : State} (h : step s = .next t) : t.key = s.key := by
  rcases step_next h with ⟨f, rfl⟩ | ⟨-, -, i, hi⟩
  · rfl
  · exact exec_key hi

/-- Settles O51, action by action. -/
theorem compatNeverChanges : Obligations.CompatNeverChanges := by
  intro σ σ' a r h
  rcases Session.act_cases h with hc | ⟨-, hc⟩ | ⟨-, hc⟩ | ⟨i, p, -, hc⟩ | ⟨im, -, -, hc⟩
  · rw [hc]
  · exact step_compat hc
  · rw [hc]; rfl
  · rw [setKey_next hc]; rfl
  · rw [hc]; rfl

/-- Settles O52, action by action. -/
theorem onlySetKeyWritesTheKeypad : Obligations.OnlySetKeyWritesTheKeypad := by
  intro σ σ' a r h hno
  rcases Session.act_cases h with hc | ⟨-, hc⟩ | ⟨-, hc⟩ | ⟨i, p, ha, -⟩ | ⟨im, -, -, hc⟩
  · rw [hc]
  · exact step_key hc
  · rw [hc]; rfl
  · exact absurd ha (hno i p)
  · rw [hc]; rfl

end Sys2Proof.Machine

namespace Sys2Proof.Machine

open Sys2Proof Sys2Proof.Config

/-! ## O54: pc after a completed step -/

theorem toNat_add_two {w : Word} (h : w.toNat + 1 < 4096) : (w + 2).toNat = w.toNat + 2 := by
  rw [BitVec.toNat_add]
  exact Nat.mod_eq_of_lt (by simp; omega)

theorem toNat_add_four {w : Word} (h : w.toNat + 1 < 4096) : (w + 4).toNat = w.toNat + 4 := by
  rw [BitVec.toNat_add]
  exact Nat.mod_eq_of_lt (by simp; omega)

@[simp] theorem immAddr_toNat (nnn : Imm12) : (immAddr nnn).toNat = nnn.toNat := by
  have := nnn.isLt
  rw [immAddr, BitVec.toNat_setWidth]
  exact Nat.mod_eq_of_lt (by omega)

/-- RelJump's sum does not wrap (41_flow.md R147). -/
theorem immAddr_add_byte_toNat (nnn : Imm12) (b : Byte) : (immAddr nnn + b.setWidth 16).toNat = nnn.toNat + b.toNat := by
  have := nnn.isLt
  have := b.isLt
  rw [BitVec.toNat_add, immAddr_toNat, BitVec.toNat_setWidth]
  omega

/-- A skip's pc as the table gives it. -/
theorem skip_pc_toNat {s : State} (h : s.pc.toNat + 1 < 4096) (taken : Bool) :
    (if taken then s.pc + 4 else s.pc + 2).toNat = if taken then s.pc.toNat + 4 else s.pc.toNat + 2 := by
  cases taken
  · exact toNat_add_two h
  · exact toNat_add_four h

/-- An instruction fetched inside memory takes a fault or leaves pc where the table says (10_state.md R26). -/
theorem exec_fault_or_pc {i : Instr} {s t : State} (hpc : s.pc.toNat + 1 < 4096) (h : exec i s = .next t) :
    (∃ f, t = s.withFault f) ∨ t.pc.toNat = pcAfter i s := by
  have two := toNat_add_two hpc
  cases i with
  | ret =>
    rcases execRet_next h with ⟨top, rest, hst, rfl⟩ | hf
    · exact .inr (by simp [pcAfter, hst])
    · exact .inl hf
  | jump nnn => cases h; exact .inr (immAddr_toNat nnn)
  | call nnn =>
    rcases execCall_next h with ⟨-, rfl⟩ | hf
    · exact .inr (immAddr_toNat nnn)
    · exact .inl hf
  | relJump nnn => cases h; exact .inr (immAddr_add_byte_toNat nnn _)
  | skipImmEq | skipImmNe | skipRegEq | skipRegNe | keyPressed | keyNotPressed =>
    obtain rfl := skipIf_next h
    exact .inr (skip_pc_toNat hpc _)
  | waitForKey x =>
    obtain rfl := execWaitForKey_next h
    refine .inr ?_
    simp only [State.setPc_pc, pcAfter]
    split
    · exact two
    · rfl
  | draw | bcdReg | saveRegRange | loadRegRange =>
    rcases guardRange_next h with ⟨-, rfl⟩ | hf
    · exact .inr (by simpa [pcAfter] using two)
    · exact .inl hf
  | decrBy | invDecrBy | rightShift | leftShift => cases h; exact .inr (by simpa [pcAfter] using two)
  | clear | regAssign | regIncr | assign | or | and | xor | incrBy | setIndex | random | checkDelay | setDelay | setBuzzer
  | incrIndex | setIndexHex => cases h; exact .inr two

/-- Settles O54: a faulted state is not Running. -/
theorem pcAfterACompletedStep : Obligations.PcAfterACompletedStep := by
  intro i s t _ hpc h hrun
  rcases exec_fault_or_pc hpc h with ⟨f, rfl⟩ | ht
  · cases hrun
  · exact ht

/-! ## O13 and O12: the invariant -/

/-- The popped address is the only value of pc that the instruction and its fetch address do not bound by themselves. -/
theorem pcAfter_le (i : Instr) {s : State} (hpc : s.pc.toNat + 1 < 4096) (hst : ∀ a ∈ s.stack, a.toNat ≤ 4096) :
    pcAfter i s ≤ 0x10FE := by
  have skip (taken : Bool) : (if taken then s.pc.toNat + 4 else s.pc.toNat + 2) ≤ 0x10FE := by split <;> omega
  cases i with
  | ret =>
    cases hs : s.stack with
    | nil => simp [pcAfter, hs]
    | cons top rest =>
      have := hst top (by simp [hs])
      simp only [pcAfter, hs, List.headD_cons]
      omega
  | jump nnn | call nnn => exact nnn.isLt.le.trans (by decide)
  | relJump nnn =>
    have := nnn.isLt
    have := (s.reg (relJumpReg s.compat nnn)).isLt
    simp only [pcAfter]
    omega
  | skipImmEq | skipImmNe | skipRegEq | skipRegNe | keyPressed | keyNotPressed => exact skip _
  | waitForKey x => simp only [pcAfter]; split <;> omega
  | _ => simp only [pcAfter]; omega

/-- The stack after an instruction: as before, popped by a Return, or pushed by a Call with room (10_state.md R32). -/
theorem exec_stack_cases {i : Instr} {s t : State} (h : exec i s = .next t) :
    t.stack = s.stack ∨ (∃ top, s.stack = top :: t.stack) ∨
      (s.stack.length < stackCapacity ∧ t.stack = (s.pc + 2) :: s.stack) := by
  by_cases hw : mayWrite i s .stack
  · cases i with
    | ret =>
      rcases execRet_next h with ⟨top, rest, hst, rfl⟩ | ⟨f, rfl⟩
      · exact .inr (.inl ⟨top, hst⟩)
      · exact .inl rfl
    | call nnn =>
      rcases execCall_next h with ⟨hroom, rfl⟩ | ⟨f, rfl⟩
      · exact .inr (.inr ⟨hroom, rfl⟩)
      · exact .inl rfl
    | _ => simp [mayWrite] at hw
  · exact .inl ((exec_leaves h).frame .stack (by simpa using hw))

/-- Every byte an instruction stores is inside memory (20_memory.md R55, R56). -/
theorem exec_mem_cases {i : Instr} {s t : State} (h : exec i s = .next t) :
    t.mem = s.mem ∨
      ∃ a bytes, a + bytes.length ≤ memSize ∧ t.mem = s.mem.writeBytes a bytes := by
  by_cases hw : ∃ a, mayWrite i s (.byte a)
  · cases i with
    | bcdReg x =>
      rcases guardRange_next h with ⟨hfit, rfl⟩ | ⟨f, rfl⟩
      · exact .inr ⟨_, _, by rw [bcdDigits_length]; omega, rfl⟩
      · exact .inl rfl
    | saveRegRange x =>
      rcases guardRange_next h with ⟨hfit, rfl⟩ | ⟨f, rfl⟩
      · exact .inr ⟨_, _, by rw [State.firstRegs_length]; omega, rfl⟩
      · exact .inl rfl
    | _ => simp [mayWrite] at hw
  · exact .inl ((exec_leaves h).mem (by simpa using hw))

theorem State.Inv.withFault {s : State} (hs : s.Inv) (f : Fault) : (s.withFault f).Inv :=
  ⟨hs.memWf, hs.stackDepth, hs.stackEntries, hs.pcBound⟩

/-- An instruction fetched inside memory keeps the invariant. -/
theorem exec_keeps_inv {i : Instr} {s t : State} (hs : s.Inv) (hpc : s.pc.toNat + 1 < 4096)
    (h : exec i s = .next t) : t.Inv where
  memWf := by
    rcases exec_mem_cases h with hm | ⟨a, bytes, hfit, hm⟩ <;> rw [hm]
    · exact hs.memWf
    · exact Memory.wf_writeBytes bytes hs.memWf hfit
  stackDepth := by
    have hdepth := hs.stackDepth
    rcases exec_stack_cases h with hst | ⟨top, hst⟩ | ⟨hroom, hst⟩
    · rwa [hst]
    · rw [hst, List.length_cons] at hdepth
      omega
    · rw [hst, List.length_cons]
      omega
  stackEntries := by
    have hentries := hs.stackEntries
    rcases exec_stack_cases h with hst | ⟨top, hst⟩ | ⟨-, hst⟩
    · rwa [hst]
    · rw [hst, List.forall_mem_cons] at hentries
      exact hentries.2
    · rw [hst, List.forall_mem_cons, toNat_add_two hpc]
      exact ⟨by omega, hentries⟩
  pcBound := by
    rcases exec_fault_or_pc hpc h with ⟨f, rfl⟩ | ht
    · exact hs.pcBound
    · rw [ht]
      exact pcAfter_le i hpc hs.stackEntries

/-- Settles O13: a fault changes only status, and an instruction that runs was fetched inside memory. -/
theorem stepKeepsTheInvariant : Obligations.StepKeepsTheInvariant := by
  intro s t hs h
  rcases step_next h with ⟨f, rfl⟩ | ⟨-, hpc, i, hi⟩
  · exact hs.withFault f
  · exact exec_keeps_inv hs hpc hi

/-- Settles O12, field by field of the invariant. -/
theorem resetMeetsTheInvariant : Obligations.ResetMeetsTheInvariant where
  memWf := State.reset_mem_wf
  stackDepth := by simp [State.reset]
  stackEntries := by simp [State.reset]
  pcBound := by decide

/-! ## O11: the reset values -/

theorem pFont_length : pFont.length = 80 := rfl

theorem resetByte_of_font {a : Nat} (h : a < 80) : some (resetByte a) = pFont[a]? := by
  rw [resetByte, List.getElem?_eq_getElem (by rw [pFont_length]; exact h), Option.getD_some]

theorem resetByte_above_font {a : Nat} (h : 80 ≤ a) : resetByte a = 0 := by
  rw [resetByte, List.getElem?_eq_none (by rw [pFont_length]; exact h), Option.getD_none]

/-- Settles O11, component by component. -/
theorem resetValues : Obligations.ResetValues := by
  refine ⟨fun x => ?reg, rfl, rfl, rfl, fun d k hd hk => ?font, fun a ha => resetByte_above_font ha, rfl, rfl,
    fun k => ?key, fun x y => Framebuffer.pixel_blank x y, rfl, rfl⟩
  case reg => exact Vector.getElem_replicate _
  case font => exact resetByte_of_font (by omega)
  case key => exact Vector.getElem_replicate _

end Sys2Proof.Machine

namespace Sys2Proof.Machine

open Sys2Proof Sys2Proof.Config

/-! ## O56 and O57: what an instruction does not read -/

/-- `f` changes only what no instruction but the ones that read the keypad or the mode, or write ST, can see: the reads below
are the same after `f`, and every write but that of ST commutes with it. -/
structure Unread (f : State → State) : Prop where
  reg : ∀ s x, (f s).reg x = s.reg x
  i : ∀ s, (f s).i = s.i
  pc : ∀ s, (f s).pc = s.pc
  stack : ∀ s, (f s).stack = s.stack
  mem : ∀ s, (f s).mem = s.mem
  dt : ∀ s, (f s).dt = s.dt
  fb : ∀ s, (f s).fb = s.fb
  draws : ∀ s, (f s).draws = s.draws
  setReg : ∀ s x b, (f s).setReg x b = f (s.setReg x b)
  setIndex : ∀ s w, (f s).setIndex w = f (s.setIndex w)
  setPc : ∀ s w, (f s).setPc w = f (s.setPc w)
  setStack : ∀ s l, (f s).setStack l = f (s.setStack l)
  setMem : ∀ s m, (f s).setMem m = f (s.setMem m)
  setDelay : ∀ s b, (f s).setDelay b = f (s.setDelay b)
  setFb : ∀ s g, (f s).setFb g = f (s.setFb g)
  countDraw : ∀ s, (f s).countDraw = f s.countDraw
  withFault : ∀ s e, (f s).withFault e = f (s.withFault e)

theorem unread_sound (b : Byte) : Unread fun s => { s with st := b } := by constructor <;> intros <;> rfl

theorem unread_compat (mode : Compat) : Unread fun s => { s with compat := mode } := by constructor <;> intros <;> rfl

namespace Unread

variable {f : State → State} (hf : Unread f)
include hf

/-! ### The reads built from the plain ones -/

theorem byte (s : State) (a : Nat) : (f s).byte a = s.byte a := by rw [State.byte, hf.mem, State.byte]

theorem effAddr (s : State) (k : Nat) : Machine.effAddr (f s) k = Machine.effAddr s k := by
  rw [Machine.effAddr, hf.i, Machine.effAddr]

theorem originX (s : State) (x : Nibble) : Machine.originX (f s) x = Machine.originX s x := by
  rw [Machine.originX, hf.reg, Machine.originX]

theorem originY (s : State) (y : Nibble) : Machine.originY (f s) y = Machine.originY s y := by
  rw [Machine.originY, hf.reg, Machine.originY]

theorem keyIndex (s : State) (x : Nibble) : Machine.keyIndex (f s) x = Machine.keyIndex s x := by
  rw [Machine.keyIndex, hf.reg, Machine.keyIndex]

theorem drawByte (s : State) : Machine.drawByte (f s) = Machine.drawByte s := by
  rw [Machine.drawByte, hf.draws, Machine.drawByte]

theorem spriteRows (s : State) (n : Nat) : Machine.spriteRows (f s) n = Machine.spriteRows s n := by
  simp only [Machine.spriteRows, hf.byte, hf.effAddr]

theorem firstRegs (s : State) (n : Nat) : (f s).firstRegs n = s.firstRegs n := by
  simp only [State.firstRegs, hf.reg]

theorem shiftSource {s : State} (hc : (f s).compat = s.compat) (x y : Nibble) :
    Machine.shiftSource (f s) x y = Machine.shiftSource s x y := by
  simp only [Machine.shiftSource, hc, hf.reg]

/-! ### The writes built from the plain ones -/

theorem advance (s : State) : (f s).advance = f s.advance := by
  rw [State.advance, hf.pc, hf.setPc, State.advance]

theorem writeResultThenFlag (s : State) (x : Nibble) (b c : Byte) :
    (f s).writeResultThenFlag x b c = f (s.writeResultThenFlag x b c) := by
  simp only [State.writeResultThenFlag, hf.setReg]

theorem writeFlagThenResult (s : State) (x : Nibble) (b c : Byte) :
    (f s).writeFlagThenResult x b c = f (s.writeFlagThenResult x b c) := by
  unfold State.writeFlagThenResult
  split
  · simp only [hf.setReg]
  · exact hf.writeResultThenFlag s x b c

theorem writeCollision (s : State) (e : Bool) : (f s).writeCollision e = f (s.writeCollision e) := by
  unfold State.writeCollision
  split
  · exact hf.setReg _ _ _
  · rfl

theorem loadRegs (s : State) (base n : Nat) : (f s).loadRegs base n = f (s.loadRegs base n) := by
  induction n with
  | zero => rfl
  | succ n ih => rw [State.loadRegs_succ, ih, hf.byte, hf.setReg, State.loadRegs_succ]

/-! ### The shared operations, from one run to the other -/

theorem skipIf_congr (taken : Bool) {s t : State} (h : skipIf taken s = .next t) :
    skipIf taken (f s) = .next (f t) := by
  rw [skipIf_next h, skipIf_eq, hf.pc, hf.setPc]

theorem takeFault_congr {e : Fault} {s t : State} (h : takeFault e s = .next t) :
    takeFault e (f s) = .next (f t) := by
  cases h
  exact congrArg _ (hf.withFault s e)

theorem guardRange_congr {base count : Nat} {s t u v : State} (hv : v = f u)
    (h : guardRange base count s (.next u) = .next t) :
    guardRange base count (f s) (.next v) = .next (f t) := by
  subst hv
  unfold guardRange at h ⊢
  split at h
  · exact hf.takeFault_congr h
  · cases h; rfl

/-- An instruction that reads nothing `f` changes runs the same after `f`; the three last hypotheses are what the key
instructions, the shifts and RelJump, and SetBuzzer need beside the rest. -/
theorem exec_congr {i : Instr} {s t : State}
    (hkey : (∀ k, (f s).keyDown k = s.keyDown k) ∨
      ∀ x, i ≠ .keyPressed x ∧ i ≠ .keyNotPressed x ∧ i ≠ .waitForKey x)
    (hmode : (f s).compat = s.compat ∨ ∀ x y nnn, i ≠ .rightShift x y ∧ i ≠ .leftShift x y ∧ i ≠ .relJump nnn)
    (hsound : (∀ u b, (f u).setSound b = f (u.setSound b)) ∨ ∀ x, i ≠ .setBuzzer x)
    (h : exec i s = .next t) : exec i (f s) = .next (f t) := by
  cases i with
  | clear => cases h; simp only [exec, execClear, hf.advance, hf.setFb]
  | ret =>
    simp only [exec, execRet, hf.stack] at h ⊢
    split at h
    · exact hf.takeFault_congr h
    · cases h; simp only [hf.advance, hf.setStack, hf.setPc]
  | jump => cases h; simp only [exec, execJump, hf.advance, hf.setPc]
  | call =>
    simp only [exec, execCall, hf.stack] at h ⊢
    split at h
    · rw [if_pos ‹_›]
      exact hf.takeFault_congr h
    · cases h
      rw [if_neg ‹_›]
      simp only [hf.advance, hf.pc, hf.setStack, hf.setPc]
  | skipImmEq => simpa only [exec, execSkipImmEq, hf.reg] using hf.skipIf_congr _ h
  | skipImmNe => simpa only [exec, execSkipImmNe, hf.reg] using hf.skipIf_congr _ h
  | skipRegEq => simpa only [exec, execSkipRegEq, hf.reg] using hf.skipIf_congr _ h
  | skipRegNe => simpa only [exec, execSkipRegNe, hf.reg] using hf.skipIf_congr _ h
  | regAssign => cases h; simp only [exec, execRegAssign, hf.advance, hf.setReg]
  | regIncr => cases h; simp only [exec, execRegIncr, hf.advance, hf.reg, hf.setReg]
  | assign => cases h; simp only [exec, execAssign, hf.advance, hf.reg, hf.setReg]
  | or => cases h; simp only [exec, execOr, hf.advance, hf.reg, hf.setReg]
  | and => cases h; simp only [exec, execAnd, hf.advance, hf.reg, hf.setReg]
  | xor => cases h; simp only [exec, execXor, hf.advance, hf.reg, hf.setReg]
  | incrBy => cases h; simp only [exec, execIncrBy, hf.advance, hf.reg, hf.writeResultThenFlag]
  | decrBy => cases h; simp only [exec, execDecrBy, hf.advance, hf.reg, hf.writeFlagThenResult]
  | invDecrBy => cases h; simp only [exec, execInvDecrBy, hf.advance, hf.reg, hf.writeFlagThenResult]
  | rightShift x y =>
    have hc := hmode.resolve_right fun hno => (hno x y 0).1 rfl
    cases h
    simp only [exec, execRightShift, hf.advance, hf.shiftSource hc, hf.writeFlagThenResult]
  | leftShift x y =>
    have hc := hmode.resolve_right fun hno => (hno x y 0).2.1 rfl
    cases h
    simp only [exec, execLeftShift, hf.advance, hf.shiftSource hc, hf.writeFlagThenResult]
  | relJump nnn =>
    have hc := hmode.resolve_right fun hno => (hno 0 0 nnn).2.2 rfl
    cases h
    simp only [exec, execRelJump, hf.advance, hc, hf.reg, hf.setPc]
  | setIndex => cases h; simp only [exec, execSetIndex, hf.advance, hf.setIndex]
  | random => cases h; simp only [exec, execRandom, hf.advance, hf.countDraw, hf.drawByte, hf.setReg]
  | draw =>
    simp only [exec, execDraw, hf.effAddr, hf.originX, hf.originY, hf.spriteRows, hf.fb, hf.advance] at h ⊢
    exact hf.guardRange_congr (by rw [hf.setFb, hf.writeCollision]) h
  | keyPressed x =>
    have hk := hkey.resolve_right fun hno => (hno x).1 rfl
    simpa only [exec, execKeyPressed, hf.keyIndex, hk] using hf.skipIf_congr _ h
  | keyNotPressed x =>
    have hk := hkey.resolve_right fun hno => (hno x).2.1 rfl
    simpa only [exec, execKeyNotPressed, hf.keyIndex, hk] using hf.skipIf_congr _ h
  | waitForKey x =>
    have hk := hkey.resolve_right fun hno => (hno x).2.2 rfl
    cases h
    simp only [exec, execWaitForKey, hf.keyIndex, hk, hf.advance, hf.pc, hf.setPc, apply_ite f]
  | checkDelay => cases h; simp only [exec, execCheckDelay, hf.advance, hf.dt, hf.setReg]
  | setDelay => cases h; simp only [exec, execSetDelay, hf.advance, hf.reg, hf.setDelay]
  | setBuzzer x =>
    have hs := hsound.resolve_right fun hno => hno x rfl
    cases h
    simp only [exec, execSetBuzzer, hf.advance, hf.reg, hs]
  | incrIndex => cases h; simp only [exec, execIncrIndex, hf.advance, hf.i, hf.reg, hf.setIndex, hf.setReg]
  | setIndexHex => cases h; simp only [exec, execSetIndexHex, hf.advance, hf.reg, hf.setIndex]
  | bcdReg =>
    simp only [exec, execBcdReg, hf.effAddr, hf.reg, hf.mem, hf.advance] at h ⊢
    exact hf.guardRange_congr (hf.setMem _ _) h
  | saveRegRange =>
    simp only [exec, execSaveRegRange, hf.effAddr, hf.firstRegs, hf.mem, hf.advance] at h ⊢
    exact hf.guardRange_congr (hf.setMem _ _) h
  | loadRegRange =>
    simp only [exec, execLoadRegRange, hf.effAddr, hf.advance] at h ⊢
    exact hf.guardRange_congr (hf.loadRegs _ _ _) h

end Unread

/-- Settles O57: another mode is a change that no other instruction reads. -/
theorem onlyShiftsAndRelJumpReadCompat : Obligations.OnlyShiftsAndRelJumpReadCompat :=
  fun _ _ _ mode hno h => (unread_compat mode).exec_congr (.inl fun _ => rfl) (.inr hno) (.inl fun _ _ => rfl) h

/-- SetBuzzer overwrites ST, so the old value is gone. -/
theorem exec_setBuzzer_of_sound {x : Nibble} {s t : State} (b : Byte) (h : exec (.setBuzzer x) s = .next t) :
    exec (.setBuzzer x) { s with st := b } = .next t := by
  cases h
  rfl

/-- No instruction but SetBuzzer reads or writes ST. -/
theorem exec_of_sound {i : Instr} (hno : ∀ x, i ≠ .setBuzzer x) {s t : State} (b : Byte) (h : exec i s = .next t) :
    exec i { s with st := b } = .next { t with st := b } :=
  (unread_sound b).exec_congr (.inl fun _ => rfl) (.inl rfl) (.inr hno) h

/-- Settles O56: SetBuzzer writes ST without reading it, and every other instruction leaves it alone. -/
theorem noInstructionReadsTheSoundTimer : Obligations.NoInstructionReadsTheSoundTimer := by
  intro i s t b h
  by_cases hb : ∃ x, i = .setBuzzer x
  · obtain ⟨x, rfl⟩ := hb
    exact ⟨t, exec_setBuzzer_of_sound b h, rfl, fun hno => absurd rfl (hno x), fun _ => rfl⟩
  · exact ⟨_, exec_of_sound (fun x hx => hb ⟨x, hx⟩) b h, rfl, fun _ => rfl, fun hx => absurd hx hb⟩

end Sys2Proof.Machine

namespace Sys2Proof.Machine

open Sys2Proof Sys2Proof.Config

/-! ## O38: a fetch sees the stored bytes -/

theorem effAddr_eq_add (s : State) (k : Nat) : effAddr s k = effAddr s 0 + k := rfl

/-- BcdReg inside memory (43_index_memory.md R203): the step and the store of the three digits. -/
theorem exec_bcdReg_of_lt {x : Nibble} {s : State} (h : effAddr s 2 < 4096) :
    exec (.bcdReg x) s = .next (s.advance.setMem (s.mem.writeBytes (effAddr s 0) (bcdDigits (s.reg x)))) :=
  guardRange_of_fits s _ (.inr h)

/-- SaveRegRange inside memory (43_index_memory.md R204): the step and the store of V[0] to V[x]. -/
theorem exec_saveRegRange_of_lt {x : Nibble} {s : State} (h : effAddr s x.toNat < 4096) :
    exec (.saveRegRange x) s =
      .next (s.advance.setMem (s.mem.writeBytes (effAddr s 0) (s.firstRegs (x.toNat + 1)))) :=
  guardRange_of_fits s _ (.inr h)

/-- At the offsets 0, 1 and 2 from I the digits are found, and the old byte elsewhere. -/
theorem read_writeBytes_bcdDigits (x : Nibble) (s : State) (a : Nat) :
    (s.mem.writeBytes (effAddr s 0) (bcdDigits (s.reg x))).read a = byteAfter (.bcdReg x) s a := by
  have h1 := effAddr_eq_add s 1
  have h2 := effAddr_eq_add s 2
  rw [Memory.read_writeBytes, bcdDigits_length, byteAfter]
  by_cases hin : effAddr s 0 ≤ a ∧ a < effAddr s 0 + 3
  · rw [if_pos hin]
    obtain rfl | rfl | rfl : a = effAddr s 0 ∨ a = effAddr s 0 + 1 ∨ a = effAddr s 0 + 2 := by omega
    all_goals simp [bcdDigits, h1, h2]
  · rw [if_neg hin, if_neg (by omega), if_neg (by omega), if_neg (by omega), State.byte]

/-- At the offsets 0 to x from I the register of that number is found, and the old byte elsewhere. -/
theorem read_writeBytes_firstRegs (x : Nibble) (s : State) (a : Nat) :
    (s.mem.writeBytes (effAddr s 0) (s.firstRegs (x.toNat + 1))).read a = byteAfter (.saveRegRange x) s a := by
  have hx := effAddr_eq_add s x.toNat
  rw [Memory.read_writeBytes, State.firstRegs_length, byteAfter]
  by_cases hin : effAddr s 0 ≤ a ∧ a ≤ effAddr s x.toNat
  · rw [if_pos hin, if_pos (by omega), State.firstRegs_get s (by omega), Option.getD_some]
  · rw [if_neg hin, if_neg (by omega), State.byte]

/-- A BcdReg or a SaveRegRange inside memory answers a state whose every byte is the one `byteAfter` gives. -/
theorem exec_store_byte {i : Instr} {x : Nibble} {s : State}
    (h : (i = .bcdReg x ∧ effAddr s 2 < 4096) ∨ (i = .saveRegRange x ∧ effAddr s x.toNat < 4096)) :
    ∃ t, exec i s = .next t ∧ ∀ a, t.byte a = byteAfter i s a := by
  obtain ⟨rfl, hlt⟩ | ⟨rfl, hlt⟩ := h
  · exact ⟨_, exec_bcdReg_of_lt hlt, read_writeBytes_bcdDigits x s⟩
  · exact ⟨_, exec_saveRegRange_of_lt hlt, read_writeBytes_firstRegs x s⟩

/-- A fetch at `a` reads the state's memory at `a` and `a + 1`, whatever its pc was. -/
theorem State.fetch_at (t : State) {a : Word} (h : a.toNat + 1 < 4096) :
    ({ t with pc := a } : State).fetch = .ok (t.byte a.toNat ++ t.byte (a.toNat + 1)) :=
  State.fetch_of_lt h

/-- Settles O38: a fetch reads the bytes of memory, and the store left each of them as `byteAfter` says. -/
theorem fetchSeesEarlierStores : Obligations.FetchSeesEarlierStores := by
  intro i x s h
  obtain ⟨t, ht, hbyte⟩ := exec_store_byte h
  refine ⟨t, ht, fun a ha => ?_⟩
  rw [t.fetch_at ha, hbyte, hbyte]

end Sys2Proof.Machine

namespace Sys2Proof.Machine

open Sys2Proof Sys2Proof.Config

/-! ## O1: decoding an encoded instruction -/

/-- The round trip of every instruction, from the law of its constructor. -/
theorem roundTrip : ∀ i : Instr, Laws.RoundTrip.Statement i
  | .clear => Laws.RoundTrip.clear
  | .ret => Laws.RoundTrip.ret
  | .jump nnn => Laws.RoundTrip.jump nnn
  | .call nnn => Laws.RoundTrip.call nnn
  | .skipImmEq x nn => Laws.RoundTrip.skipImmEq x nn
  | .skipImmNe x nn => Laws.RoundTrip.skipImmNe x nn
  | .skipRegEq x y => Laws.RoundTrip.skipRegEq x y
  | .regAssign x nn => Laws.RoundTrip.regAssign x nn
  | .regIncr x nn => Laws.RoundTrip.regIncr x nn
  | .assign x y => Laws.RoundTrip.assign x y
  | .or x y => Laws.RoundTrip.or x y
  | .and x y => Laws.RoundTrip.and x y
  | .xor x y => Laws.RoundTrip.xor x y
  | .incrBy x y => Laws.RoundTrip.incrBy x y
  | .decrBy x y => Laws.RoundTrip.decrBy x y
  | .rightShift x y => Laws.RoundTrip.rightShift x y
  | .invDecrBy x y => Laws.RoundTrip.invDecrBy x y
  | .leftShift x y => Laws.RoundTrip.leftShift x y
  | .skipRegNe x y => Laws.RoundTrip.skipRegNe x y
  | .setIndex nnn => Laws.RoundTrip.setIndex nnn
  | .relJump nnn => Laws.RoundTrip.relJump nnn
  | .random x nn => Laws.RoundTrip.random x nn
  | .draw x y n => Laws.RoundTrip.draw x y n
  | .keyPressed x => Laws.RoundTrip.keyPressed x
  | .keyNotPressed x => Laws.RoundTrip.keyNotPressed x
  | .checkDelay x => Laws.RoundTrip.checkDelay x
  | .waitForKey x => Laws.RoundTrip.waitForKey x
  | .setDelay x => Laws.RoundTrip.setDelay x
  | .setBuzzer x => Laws.RoundTrip.setBuzzer x
  | .incrIndex x => Laws.RoundTrip.incrIndex x
  | .setIndexHex x => Laws.RoundTrip.setIndexHex x
  | .bcdReg x => Laws.RoundTrip.bcdReg x
  | .saveRegRange x => Laws.RoundTrip.saveRegRange x
  | .loadRegRange x => Laws.RoundTrip.loadRegRange x

theorem decode_encode (i : Instr) : decode (encode i) = .ok i := by
  obtain ⟨-, -, hdec⟩ := roundTrip i
  exact hdec

theorem illegalWord_encode (i : Instr) : illegalWord (encode i) = false := by
  obtain ⟨hwf, -, -⟩ := roundTrip i
  simpa [wellFormedWord] using hwf

/-- Settles O1: every constructor's round trip. -/
theorem decodeOfEncodeIsTheInstruction : Obligations.DecodeOfEncodeIsTheInstruction := decode_encode

/-! ## O2 and O3: what the decoder answers on a word

One statement serves both: an instruction answered encodes to the word, and an error answered is the word's own and the word
stands in R90's list. It is proved arm by arm; `decode_encode` and `illegalWord_encode` then turn each half into an `↔`. -/

/-- What an answer of the decoder says of the word `w` it was given (30_encoding.md R90, R93). -/
def Faithful (w : Word) : Except DecodeError Instr → Prop
  | .ok i => encode i = w
  | .error e => e = .illegalWord w ∧ illegalWord w = true

section
variable {w : Word} {op : Nibble}

/-! ### A word from the fields the decoder matched -/

theorem wordNNN_of_op (hop : (opField w).toNat = op.toNat) : wordNNN op (nnnField w) = w := by
  rw [← BitVec.eq_of_toNat_eq hop, wordNNN_fields]

theorem wordXNN_of_op (hop : (opField w).toNat = op.toNat) : wordXNN op (xField w) (nnField w) = w := by
  rw [← BitVec.eq_of_toNat_eq hop, wordXNN_fields]

theorem wordXYN_of_op (hop : (opField w).toNat = op.toNat) : wordXYN op (xField w) (yField w) (nField w) = w := by
  rw [← BitVec.eq_of_toNat_eq hop, wordXYN_fields]

theorem wordXNN_of_op_nn {nn : Byte} (hop : (opField w).toNat = op.toNat) (hnn : (nnField w).toNat = nn.toNat) :
    wordXNN op (xField w) nn = w := by
  rw [← BitVec.eq_of_toNat_eq hnn, wordXNN_of_op hop]

theorem wordXYN_of_op_n {n : Nibble} (hop : (opField w).toNat = op.toNat) (hn : (nField w).toNat = n.toNat) :
    wordXYN op (xField w) (yField w) n = w := by
  rw [← BitVec.eq_of_toNat_eq hn, wordXYN_of_op hop]

/-! ### R90's list in terms of the decoder's fields -/

theorem familyOf_eq (w : Word) : familyOf w = (opField w).toNat := (opField_toNat w).symm

theorem lastNibbleOf_eq (w : Word) : lastNibbleOf w = (nField w).toNat := (nField_toNat w).symm

theorem lastByteOf_eq (w : Word) : lastByteOf w = (nnField w).toNat := (nnField_toNat w).symm

/-! ### The second level of the decoder, family by family -/

theorem decodeFixed_faithful (hop : (opField w).toNat = 0x0) : Faithful w (decodeFixed w) := by
  unfold decodeFixed
  split
  case h_1 h | h_2 h => exact (BitVec.eq_of_toNat_eq h).symm
  case h_3 h₁ h₂ =>
    have hill : illegalFixed w = true := by simpa [illegalFixed, familyOf_eq, hop] using ⟨h₁, h₂⟩
    exact ⟨rfl, by simp [illegalWord, hill]⟩

/-- A legal skip encodes to the word, and a last nibble other than 0 is illegal in both families of skips (D4). -/
theorem decodeSkipReg_faithful {i : Instr} (hi : encode i = wordXYN op (xField w) (yField w) 0x0)
    (hop : (opField w).toNat = op.toNat) (hfam : op = 0x5 ∨ op = 0x9) : Faithful w (decodeSkipReg i w) := by
  unfold decodeSkipReg
  split
  case h_1 h => exact hi.trans (wordXYN_of_op_n hop h)
  case h_2 h =>
    have hill : illegalSkipEq w = true ∨ illegalSkipNe w = true := by
      obtain rfl | rfl := hfam
      · exact .inl (by simpa [illegalSkipEq, familyOf_eq, lastNibbleOf_eq, hop] using h)
      · exact .inr (by simpa [illegalSkipNe, familyOf_eq, lastNibbleOf_eq, hop] using h)
    exact ⟨rfl, by obtain h | h := hill <;> simp [illegalWord, h]⟩

theorem decodeMath_faithful (hop : (opField w).toNat = 0x8) : Faithful w (decodeMath w) := by
  unfold decodeMath
  split
  case h_10 =>
    have hlt := (nField w).isLt
    have hmem : (nField w).toNat ∈ [0x8, 0x9, 0xA, 0xB, 0xC, 0xD, 0xF] := by
      simp only [List.mem_cons, List.not_mem_nil, or_false, imp_false] at *
      omega
    have hill : illegalMath w = true := by simpa [illegalMath, familyOf_eq, lastNibbleOf_eq, hop] using hmem
    exact ⟨rfl, by simp [illegalWord, hill]⟩
  all_goals next h => exact wordXYN_of_op_n hop h

theorem decodeKey_faithful (hop : (opField w).toNat = 0xE) : Faithful w (decodeKey w) := by
  unfold decodeKey
  split
  case h_3 h₁ h₂ =>
    have hill : illegalKey w = true := by simpa [illegalKey, familyOf_eq, lastByteOf_eq, hop] using ⟨h₁, h₂⟩
    exact ⟨rfl, by simp [illegalWord, hill]⟩
  all_goals next h => exact wordXNN_of_op_nn hop h

theorem decodeExtra_faithful (hop : (opField w).toNat = 0xF) : Faithful w (decodeExtra w) := by
  unfold decodeExtra
  split
  case h_10 h₁ h₂ h₃ h₄ h₅ h₆ h₇ h₈ h₉ =>
    have hill : illegalExtra w = true := by
      simpa [illegalExtra, familyOf_eq, lastByteOf_eq, hop] using ⟨h₁, h₂, h₃, h₄, h₅, h₆, h₇, h₈, h₉⟩
    exact ⟨rfl, by simp [illegalWord, hill]⟩
  all_goals next h => exact wordXNN_of_op_nn hop h

end

/-- The decoder, said once: the first level selects a format without a second level, or one of the second-level tables. -/
theorem decode_faithful (w : Word) : Faithful w (decode w) := by
  unfold decode
  split
  case h_1 h => exact decodeFixed_faithful h
  case h_2 h | h_3 h | h_11 h | h_12 h => exact wordNNN_of_op h
  case h_4 h | h_5 h | h_7 h | h_8 h | h_13 h => exact wordXNN_of_op h
  case h_6 h => exact decodeSkipReg_faithful (op := 0x5) rfl h (.inl rfl)
  case h_9 h => exact decodeMath_faithful h
  case h_10 h => exact decodeSkipReg_faithful (op := 0x9) rfl h (.inr rfl)
  case h_14 h => exact wordXYN_of_op h
  case h_15 h => exact decodeKey_faithful h
  case h_16 h => exact decodeExtra_faithful h
  case h_17 =>
    have hlt := (opField w).isLt
    simp only [imp_false] at *
    omega

theorem encode_of_decode {w : Word} {i : Instr} (h : decode w = .ok i) : encode i = w := by
  simpa [h, Faithful] using decode_faithful w

theorem illegalWord_of_decode_error {w : Word} {e : DecodeError} (h : decode w = .error e) :
    e = .illegalWord w ∧ illegalWord w = true := by
  simpa [h, Faithful] using decode_faithful w

theorem illegalWord_of_decode_ok {w : Word} {i : Instr} (h : decode w = .ok i) : illegalWord w = false := by
  rw [← encode_of_decode h, illegalWord_encode]

/-- Settles O2: a decoded instruction encodes to its word, so two words of one instruction are one word. -/
theorem reencodingADecodedWordGivesItBack : Obligations.ReencodingADecodedWordGivesItBack :=
  ⟨fun _ _ => encode_of_decode, fun _ _ _ h h' => (encode_of_decode h).symm.trans (encode_of_decode h')⟩

/-- Settles O3, by the two answers the decoder can give. -/
theorem decodeErrorsAreExactlyTheIllegalWords : Obligations.DecodeErrorsAreExactlyTheIllegalWords := by
  intro w
  rcases h : decode w with e | i
  · obtain ⟨rfl, hill⟩ := illegalWord_of_decode_error h
    simp [hill]
  · simp [illegalWord_of_decode_ok h]

/-! ## O7: the step on an illegal word -/

/-- Settles O7: of the four things a step can do, only the fault of the decode agrees with the fetch of an illegal word. -/
theorem illegalWordFaultsWithTheWord : Obligations.IllegalWordFaultsWithTheWord := by
  intro s w hrun hfetch hill
  have hdec := (decodeErrorsAreExactlyTheIllegalWords w).1.mp hill
  rcases step_cases s with ⟨f, hf, -⟩ | ⟨-, f, hf, -⟩ | ⟨-, w', e, hf, -, hs⟩ | ⟨-, w', i, hf, hd, -⟩
  · simp [hrun] at hf
  · simp [hfetch] at hf
  · obtain rfl : w = w' := by simpa [hfetch] using hf
    exact hs
  · obtain rfl : w = w' := by simpa [hfetch] using hf
    simp [hdec] at hd

end Sys2Proof.Machine

namespace Sys2Proof.Machine

open Sys2Proof Sys2Proof.Config

/-! ## The step, an equation per branch: O8, O6, O5 and O22 -/

theorem step_of_faulted {s : State} {f : Fault} (h : s.status = .faulted f) : step s = .refused (.stepWhileFaulted f) := by
  rw [step, h]

theorem step_of_fetch_error {s : State} {f : Fault} (hrun : s.status = .running) (hf : s.fetch = .error f) :
    step s = .next (s.withFault f) := by
  simp only [step, hrun, hf, takeFault]

theorem step_of_decode {s : State} {w : Word} {i : Instr} (hrun : s.status = .running) (hf : s.fetch = .ok w)
    (hd : decode w = .ok i) : step s = exec i s := by
  simp only [step, hrun, hf, hd]

/-- Byte a of the fetch is outside memory (40_cycle.md R121). -/
theorem State.fetch_of_ge {s : State} (h : memSize ≤ s.pc.toNat) : s.fetch = .error (.memoryBounds s.pc.toNat) :=
  if_pos h

/-- Byte a is the last one of memory, and byte a + 1 is outside it (40_cycle.md R121). -/
theorem State.fetch_of_last {s : State} (h : s.pc.toNat + 1 = memSize) : s.fetch = .error (.memoryBounds memSize) := by
  have hfirst : ¬ memSize ≤ s.pc.toNat := by omega
  simp only [State.fetch, if_neg hfirst, h, le_refl, if_true]

/-- Settles O8: the step looks at status first. -/
theorem stepInFaultedIsRefused : Obligations.StepInFaultedIsRefused := fun _ _ => step_of_faulted

/-- Settles O6: the two ways a fetch can reach outside memory. -/
theorem fetchOutsideMemoryFaults : Obligations.FetchOutsideMemoryFaults := fun _ hrun =>
  ⟨fun h => step_of_fetch_error hrun (State.fetch_of_ge h),
    fun h => step_of_fetch_error hrun (State.fetch_of_last (congrArg (· + 1) h))⟩

/-- Settles O5: inside memory the fetch answers the two bytes at pc. -/
theorem stepRunsTheDecodedInstruction : Obligations.StepRunsTheDecodedInstruction := fun _ _ hrun hpc hd =>
  step_of_decode hrun (State.fetch_of_lt hpc) hd

/-- A Jump to the address it stands at undoes the pre-increment (41_flow.md R141). -/
theorem exec_jump_self {nnn : Imm12} {s : State} (h : nnn.toNat = s.pc.toNat) : exec (.jump nnn) s = .next s := by
  have htarget : immAddr nnn = s.pc := BitVec.eq_of_toNat_eq ((immAddr_toNat nnn).trans h)
  rw [exec, execJump, htarget]
  rfl

/-- Settles O22: the step of a parked core is its self-jump. -/
theorem parkedStepChangesNothing : Obligations.ParkedStepChangesNothing := by
  rintro s ⟨hrun, w, nnn, hfetch, hdec, hself⟩
  rw [step_of_decode hrun hfetch hdec, exec_jump_self hself]

/-! ## O9: faults are precise -/

/-- A step that answers took a fault, which changes only status, or left status alone. -/
theorem step_fault_or_status {s t : State} (h : step s = .next t) : (∃ f, t = s.withFault f) ∨ t.status = s.status := by
  rcases step_next h with hf | ⟨-, -, i, hi⟩
  · exact .inl hf
  · obtain ⟨u, hu, hcases⟩ := exec_answers i s
    obtain rfl : t = u := by simpa [hi] using hu
    exact hcases

/-- Settles O9: a step that leaves status alone ends in Running. -/
theorem faultingStepChangesOnlyStatus : Obligations.FaultingStepChangesOnlyStatus := by
  intro s t f hrun h hf
  rcases step_fault_or_status h with ⟨f', rfl⟩ | hsame
  · cases hf
    rfl
  · simp [hf, hrun] at hsame

/-! ## O10: exactly when an instruction faults -/

theorem exec_ret_of_nil {s : State} (h : s.stack = []) : exec .ret s = .next (s.withFault .stackUnderflow) := by
  rw [exec, execRet, h, takeFault]

theorem exec_ret_of_cons {s : State} {top : Word} {rest : List Word} (h : s.stack = top :: rest) :
    exec .ret s = .next ((s.advance.setStack rest).setPc top) := by
  rw [exec, execRet, h]

theorem exec_call_of_full {s : State} (nnn : Imm12) (h : stackCapacity ≤ s.stack.length) :
    exec (.call nnn) s = .next (s.withFault .stackOverflow) := if_pos h

theorem exec_call_of_room {s : State} (nnn : Imm12) (h : s.stack.length < stackCapacity) :
    exec (.call nnn) s = .next ((s.advance.setStack ((s.pc + 2) :: s.stack)).setPc (immAddr nnn)) :=
  if_neg (Nat.not_le_of_lt h)

/-- Beside Return and Call, an instruction is a change that leaves status alone, behind the bounds check of its data access.
One that does not reach memory accesses no byte, so its check passes. -/
theorem exec_eq_guardRange {i : Instr} (s : State) (hret : i ≠ .ret) (hcall : ∀ nnn, i ≠ .call nnn) :
    ∃ u, u.status = s.status ∧ exec i s = guardRange (dataRange i s).1 (dataRange i s).2 s (.next u) := by
  cases i with
  | ret => exact absurd rfl hret
  | call nnn => exact absurd rfl (hcall nnn)
  | draw | bcdReg | saveRegRange | loadRegRange => exact ⟨_, by simp, rfl⟩
  | _ =>
    obtain ⟨u, hu, -⟩ := exec_answers _ s
    exact ⟨u, (exec_leaves hu).frame .status (by simp [mayWrite]), hu.trans (guardRange_of_fits s _ (.inl rfl)).symm⟩

/-- Settles O10: Return by its stack, Call by its room, and every other instruction by the bounds check. -/
theorem onlyTheListedInstructionsFault : Obligations.OnlyTheListedInstructionsFault := by
  intro i s hrun
  by_cases hret : i = .ret
  · subst hret
    cases hst : s.stack with
    | nil => exact ⟨_, exec_ret_of_nil hst, .inr (.inl ⟨rfl, rfl, rfl⟩)⟩
    | cons top rest => exact ⟨_, exec_ret_of_cons hst, .inl ⟨hrun, by simp, by simp, .inl rfl⟩⟩
  by_cases hcall : ∃ nnn, i = .call nnn
  · obtain ⟨nnn, rfl⟩ := hcall
    by_cases hfull : stackCapacity ≤ s.stack.length
    · exact ⟨_, exec_call_of_full nnn hfull, .inr (.inr (.inl ⟨⟨nnn, rfl⟩, hfull, rfl⟩))⟩
    · exact ⟨_, exec_call_of_room nnn (Nat.lt_of_not_le hfull), .inl ⟨hrun, by simp, fun h => hfull h.2, .inl rfl⟩⟩
  obtain ⟨u, hu, hexec⟩ := exec_eq_guardRange s hret (not_exists.mp hcall)
  rcases guardRange_cases (dataRange i s).1 (dataRange i s).2 s (.next u) with ⟨hfit, hg⟩ | ⟨hpos, hout, hg⟩
  · exact ⟨u, hexec.trans hg, .inl ⟨hu.trans hrun, fun h => hret h.1, fun h => hcall h.1, hfit⟩⟩
  · exact ⟨_, hexec.trans hg, .inr (.inr (.inr ⟨hpos, hout, rfl⟩))⟩

/-! ## O55: the keypad -/

theorem unread_key (key : Vector Bool 16) : Unread fun s => { s with key := key } := by constructor <;> intros <;> rfl

/-- Settles O55: another keypad is a change that no instruction but the key instructions reads. -/
theorem onlyKeyInstructionsReadTheKeypad : Obligations.OnlyKeyInstructionsReadTheKeypad :=
  fun _ _ _ key hno h => (unread_key key).exec_congr (.inr hno) (.inl rfl) (.inl fun _ _ => rfl) h

end Sys2Proof.Machine

namespace Sys2Proof.Machine

open Sys2Proof Sys2Proof.Config

/-! ## O15 and O21: the jumps -/

/-- pc is the only thing a write of pc touches. -/
theorem frameExcept_setPc (s : State) (w : Word) : FrameExcept (fun c => c = .pc) s (s.setPc w) :=
  (Leaves.refl.setPc (P := fun c => c = .pc) rfl).frame

theorem exec_jump (nnn : Imm12) (s : State) : exec (.jump nnn) s = .next (s.setPc (immAddr nnn)) := rfl

theorem exec_relJump (nnn : Imm12) (s : State) :
    exec (.relJump nnn) s = .next (s.setPc (immAddr nnn + (s.reg (relJumpReg s.compat nnn)).setWidth 16)) := rfl

/-- Settles O15: the immediate is zero-extended. -/
theorem jumpSetsPc : Obligations.JumpSetsPc :=
  fun nnn s => ⟨_, exec_jump nnn s, immAddr_toNat nnn, frameExcept_setPc s _⟩

/-- The register Modern uses is the one numbered by the top nibble of the immediate (30_encoding.md R89). -/
theorem relJumpReg_modern {nnn : Imm12} {r : Nibble} (h : r.toNat = nnn.toNat / 256) : relJumpReg .modern nnn = r := by
  have := nnn.isLt
  apply BitVec.eq_of_toNat_eq
  rw [h, relJumpReg, BitVec.extractLsb'_toNat, Nat.shiftRight_eq_div_pow]
  omega

/-- Settles O21: the sum does not wrap, and the mode picks the register. -/
theorem relJumpAddsARegister : Obligations.RelJumpAddsARegister := by
  intro nnn s
  have hsum := immAddr_add_byte_toNat nnn (s.reg (relJumpReg s.compat nnn))
  refine ⟨_, exec_relJump nnn s, fun hlegacy => ?legacy, fun hmodern r hr => ?modern, frameExcept_setPc s _⟩
  case legacy =>
    have hreg : relJumpReg s.compat nnn = 0 := by rw [hlegacy, relJumpReg]
    rwa [hreg] at hsum ⊢
  case modern =>
    have hreg : relJumpReg s.compat nnn = r := by rw [hmodern, relJumpReg_modern hr]
    rwa [hreg] at hsum ⊢

/-! ## O19 and O20: the skips -/

/-- A skip on equality and a skip on inequality of the same two bytes: exactly one of them skips. -/
theorem skipIf_beq_bne (a b : Byte) (s : State) :
    (∃ t, skipIf (a == b) s = .next t ∧ t.pc = (if a = b then s.pc + 4 else s.pc + 2) ∧
      FrameExcept (fun c => c = .pc) s t) ∧
    (∃ t, skipIf (a != b) s = .next t ∧ t.pc = (if a = b then s.pc + 2 else s.pc + 4) ∧
      FrameExcept (fun c => c = .pc) s t) := by
  refine ⟨⟨_, skipIf_eq _ s, ?onEq, frameExcept_setPc s _⟩, ⟨_, skipIf_eq _ s, ?onNe, frameExcept_setPc s _⟩⟩
  case onEq => simp only [State.setPc_pc, beq_iff_eq]
  case onNe => simp only [State.setPc_pc, bne_iff_ne, ite_not]

/-- Settles O19, with V[x] and the immediate as the two bytes. -/
theorem immediateSkips : Obligations.ImmediateSkips := fun x nn s => skipIf_beq_bne (s.reg x) nn s

/-- Settles O20, with V[x] and V[y] as the two bytes. -/
theorem registerSkips : Obligations.RegisterSkips := fun x y s => skipIf_beq_bne (s.reg x) (s.reg y) s

/-! ## O16, O17 and O18: Call and Return -/

/-- pc and the stack are all that Call and Return write when they complete. -/
theorem frameExcept_setStack_setPc (s : State) (l : List Word) (w : Word) :
    FrameExcept (fun c => c = .pc ∨ c = .stack) s ((s.advance.setStack l).setPc w) :=
  (((Leaves.refl.advance (.inl rfl)).setStack (.inr rfl)).setPc (.inl rfl)).frame

/-- Settles O16, by the room on the stack. -/
theorem callPushesTheAdvancedPc : Obligations.CallPushesTheAdvancedPc := fun nnn s =>
  ⟨fun hroom => ⟨_, exec_call_of_room nnn hroom, immAddr_toNat nnn, rfl, frameExcept_setStack_setPc s _ _⟩,
    fun hfull => exec_call_of_full nnn hfull⟩

/-- Settles O17, by whether there is an address to pop. -/
theorem returnPopsPc : Obligations.ReturnPopsPc := fun s =>
  ⟨fun _ _ hcons => ⟨_, exec_ret_of_cons hcons, rfl, rfl, frameExcept_setStack_setPc s _ _⟩,
    fun hnil => exec_ret_of_nil hnil⟩

/-- Return pops what Call pushed, wherever it is fetched: of the two instructions only the advance of pc remains. -/
theorem exec_ret_after_call (s : State) (target a : Word) :
    exec .ret { (s.advance.setStack ((s.pc + 2) :: s.stack)).setPc target with pc := a } = .next s.advance :=
  exec_ret_of_cons rfl

/-- Settles O18: after the pair, pc is past the Call and nothing else has changed. -/
theorem returnUndoesCall : Obligations.ReturnUndoesCall := fun nnn s a hroom =>
  ⟨_, _, exec_call_of_room nnn hroom, exec_ret_after_call s _ a, rfl, frameExcept_setPc s _⟩

end Sys2Proof.Machine

namespace Sys2Proof.Machine

open Sys2Proof Sys2Proof.Config

/-! ## The ALU: an equation per instruction -/

section Equations

variable (x y : Nibble) (nn : Byte) (s : State)

theorem exec_regAssign : exec (.regAssign x nn) s = .next (s.advance.setReg x nn) := rfl

theorem exec_regIncr : exec (.regIncr x nn) s = .next (s.advance.setReg x (s.reg x + nn)) := rfl

theorem exec_assign : exec (.assign x y) s = .next (s.advance.setReg x (s.reg y)) := rfl

theorem exec_or : exec (.or x y) s = .next (s.advance.setReg x (s.reg x ||| s.reg y)) := rfl

theorem exec_and : exec (.and x y) s = .next (s.advance.setReg x (s.reg x &&& s.reg y)) := rfl

theorem exec_xor : exec (.xor x y) s = .next (s.advance.setReg x (s.reg x ^^^ s.reg y)) := rfl

theorem exec_incrBy : exec (.incrBy x y) s =
    .next (s.advance.writeResultThenFlag x (s.reg x + s.reg y) (carryFlag (s.reg x) (s.reg y))) := rfl

theorem exec_decrBy : exec (.decrBy x y) s =
    .next (s.advance.writeFlagThenResult x (s.reg x - s.reg y) (noBorrowFlag (s.reg x) (s.reg y))) := rfl

theorem exec_invDecrBy : exec (.invDecrBy x y) s =
    .next (s.advance.writeFlagThenResult x (s.reg y - s.reg x) (noBorrowFlag (s.reg y) (s.reg x))) := rfl

theorem exec_random : exec (.random x nn) s =
    .next (s.advance.countDraw.setReg x (randomDraw s.draws &&& nn)) := rfl

theorem shiftSource_eq : shiftSource s x y = if s.compat = .legacy then s.reg y else s.reg x := by
  cases hc : s.compat <;> simp [shiftSource, hc]

variable {x y s} {src : Byte} (hsrc : src = if s.compat = .legacy then s.reg y else s.reg x)
include hsrc

theorem exec_rightShift : exec (.rightShift x y) s =
    .next (s.advance.writeFlagThenResult x (src >>> 1) (rightShiftFlag src)) := by
  rw [hsrc, ← shiftSource_eq]
  rfl

theorem exec_leftShift : exec (.leftShift x y) s =
    .next (s.advance.writeFlagThenResult x (src <<< 1) (leftShiftFlag src)) := by
  rw [hsrc, ← shiftSource_eq]
  rfl

end Equations

/-! ## The ALU: flags and results as numbers -/

@[simp] theorem flagByte_toNat (b : Bool) : (flagByte b).toNat = b.toNat := by cases b <;> rfl

theorem carryFlag_eq (a b : Byte) : carryFlag a b = if (a.toNat + b.toNat) % 256 < b.toNat then 1 else 0 := by
  simp only [carryFlag, flagByte, BitVec.toNat_add, decide_eq_true_eq]

theorem noBorrowFlag_eq (m k : Byte) : noBorrowFlag m k = if k.toNat < m.toNat then 1 else 0 := by
  simp only [noBorrowFlag, flagByte, decide_eq_true_eq]

/-- The wrapped difference, with the minuend first as 42_alu.md R169 writes it. -/
theorem byte_sub_toNat (m k : Byte) : (m - k).toNat = (m.toNat + 256 - k.toNat) % 256 := by
  have := k.isLt
  rw [BitVec.toNat_sub]
  omega

theorem byte_shiftRight_one_toNat (src : Byte) : (src >>> 1).toNat = src.toNat / 2 := by
  rw [BitVec.toNat_ushiftRight, Nat.shiftRight_eq_div_pow]

theorem byte_shiftLeft_one_toNat (src : Byte) : (src <<< 1).toNat = src.toNat * 2 % 256 := by
  rw [BitVec.toNat_shiftLeft, Nat.shiftLeft_eq]

theorem rightShiftFlag_toNat (src : Byte) : (rightShiftFlag src).toNat = src.toNat % 2 := by
  rw [rightShiftFlag, flagByte_toNat, BitVec.getLsbD, Nat.toNat_testBit]
  omega

theorem leftShiftFlag_toNat (src : Byte) :
    (leftShiftFlag src).toNat = if pShlFlag = .documented then src.toNat / 128 else 0 := by
  have hlt := src.isLt
  unfold leftShiftFlag
  split <;> rename_i hp
  · rw [if_pos hp, flagByte_toNat, BitVec.getLsbD, Nat.toNat_testBit]
    omega
  · rw [if_neg (by rw [hp]; decide)]
    rfl

/-! ## O23, O24, O25 and O31: one register is written, and VF only when it is that register -/

theorem frameExcept_advance_setReg (s : State) (x : Nibble) (b : Byte) :
    FrameExcept (fun c => c = .pc ∨ c = .reg x) s (s.advance.setReg x b) :=
  ((Leaves.refl.advance (.inl rfl)).setReg (.inr rfl)).frame

/-- Settles O23: the register read back is the byte written. -/
theorem assignmentsWriteOneRegister : Obligations.AssignmentsWriteOneRegister := fun x y nn s =>
  ⟨⟨_, exec_regAssign x nn s, State.reg_setReg_self _ _ _, rfl, frameExcept_advance_setReg s x _⟩,
    ⟨_, exec_assign x y s, State.reg_setReg_self _ _ _, rfl, frameExcept_advance_setReg s x _⟩⟩

/-- Settles O24: the sum of two bytes is the sum of their numbers mod 256. -/
theorem regIncrWrapsWithoutFlag : Obligations.RegIncrWrapsWithoutFlag := by
  intro x nn s
  refine ⟨_, exec_regIncr x nn s, ?sum, rfl, frameExcept_advance_setReg s x _⟩
  case sum => rw [State.reg_setReg_self, BitVec.toNat_add]

/-- Settles O25, bit by bit of each operation. -/
theorem bitwiseOperations : Obligations.BitwiseOperations := by
  intro x y s
  refine ⟨⟨_, exec_or x y s, fun k => ?or, rfl, frameExcept_advance_setReg s x _⟩,
    ⟨_, exec_and x y s, fun k => ?and, rfl, frameExcept_advance_setReg s x _⟩,
    ⟨_, exec_xor x y s, fun k => ?xor, rfl, frameExcept_advance_setReg s x _⟩⟩
  case or => rw [State.reg_setReg_self, BitVec.getLsbD_or]
  case and => rw [State.reg_setReg_self, BitVec.getLsbD_and]
  case xor => rw [State.reg_setReg_self, BitVec.getLsbD_xor]

/-- Settles O31: a bit outside the mask is 0 whatever the draw is. -/
theorem randomMasksAFreshDraw : Obligations.RandomMasksAFreshDraw := by
  intro x nn s
  refine ⟨_, exec_random x nn s, State.reg_setReg_self _ _ _, fun k hk => ?masked, rfl, rfl, ?frame⟩
  case masked => rw [State.reg_setReg_self, BitVec.getLsbD_and, hk, Bool.and_false]
  case frame => exact (((Leaves.refl.advance (.inl rfl)).countDraw (.inr (.inr rfl))).setReg (.inr (.inl rfl))).frame

/-! ## O26, O28, O29 and O30: a result and a flag -/

/-- Settles O26: the flag is the last write, so it is VF's value also when x is F. -/
theorem incrByAddsWithCarry : Obligations.IncrByAddsWithCarry := by
  intro x y s
  refine ⟨_, exec_incrBy x y s, fun hx => ?sum, ?carry, rfl, ?frame⟩
  case sum => rw [State.writeResultThenFlag_reg, if_neg hx, if_pos rfl, BitVec.toNat_add]
  case carry => rw [State.writeResultThenFlag_reg, if_pos rfl, carryFlag_eq]
  case frame => exact ((Leaves.refl.advance (.inl rfl)).writeResultThenFlag (.inr (.inl rfl)) (.inr (.inr rfl))).frame

/-- What an instruction that writes a flag and a result in P_VF_WRITE_ORDER leaves in them: the one written last always stays,
the other one when x is not F. -/
theorem next_writeFlagThenResult {i : Instr} {s : State} {x : Nibble} {b f : Byte}
    (h : exec i s = .next (s.advance.writeFlagThenResult x b f)) : ∃ t, exec i s = .next t ∧
      ((x ≠ vf ∨ pVfWriteOrder = .sourceOrder) → t.reg x = b) ∧
      ((x ≠ vf ∨ pVfWriteOrder = .flagLast) → t.reg vf = f) ∧ t.pc = s.pc + 2 ∧
      FrameExcept (fun c => c = .pc ∨ c = .reg x ∨ c = .reg vf) s t :=
  ⟨_, h, State.writeFlagThenResult_reg_result _ x b f, State.writeFlagThenResult_reg_flag _ x b f,
    State.writeFlagThenResult_pc _ x b f,
    ((Leaves.refl.advance (.inl rfl)).writeFlagThenResult (.inr (.inl rfl)) (.inr (.inr rfl))).frame⟩

/-- A subtraction of `k` from `m`, whichever of V[x] and V[y] they are. -/
theorem next_subtraction {i : Instr} {s : State} {x : Nibble} {m k : Byte}
    (h : exec i s = .next (s.advance.writeFlagThenResult x (m - k) (noBorrowFlag m k))) : ∃ t, exec i s = .next t ∧
      ((x ≠ vf ∨ pVfWriteOrder = .sourceOrder) → (t.reg x).toNat = (m.toNat + 256 - k.toNat) % 256) ∧
      ((x ≠ vf ∨ pVfWriteOrder = .flagLast) → t.reg vf = (if k.toNat < m.toNat then 1 else 0)) ∧ t.pc = s.pc + 2 ∧
      FrameExcept (fun c => c = .pc ∨ c = .reg x ∨ c = .reg vf) s t := by
  obtain ⟨t, hexec, hresult, hflag, hrest⟩ := next_writeFlagThenResult h
  refine ⟨t, hexec, fun ho => ?result, fun ho => ?flag, hrest⟩
  case result => rw [hresult ho, byte_sub_toNat]
  case flag => rw [hflag ho, noBorrowFlag_eq]

/-- Settles O28: the two subtractions differ in which register is the minuend. -/
theorem subtractionsSetNoBorrow : Obligations.SubtractionsSetNoBorrow := fun x y s =>
  ⟨next_subtraction (exec_decrBy x y s), next_subtraction (exec_invDecrBy x y s)⟩

/-- Settles O29: the mode picks the source, and the shift is a division by 2 with its remainder in VF. -/
theorem rightShiftHalvesTheSource : Obligations.RightShiftHalvesTheSource := by
  intro x y s src hsrc
  obtain ⟨t, hexec, hresult, hflag, hrest⟩ := next_writeFlagThenResult (exec_rightShift hsrc)
  refine ⟨t, hexec, fun ho => ?result, fun ho => ?flag, hrest⟩
  case result => rw [hresult ho, byte_shiftRight_one_toNat]
  case flag => rw [hflag ho, rightShiftFlag_toNat]

/-- Settles O30: the mode picks the source, and the bit that the doubling drops goes to VF as P_SHL_FLAG says. -/
theorem leftShiftDoublesTheSource : Obligations.LeftShiftDoublesTheSource := by
  intro x y s src hsrc
  obtain ⟨t, hexec, hresult, hflag, hrest⟩ := next_writeFlagThenResult (exec_leftShift hsrc)
  refine ⟨t, hexec, fun ho => ?result, fun ho => ?flag, hrest⟩
  case result => rw [hresult ho, byte_shiftLeft_one_toNat]
  case flag => rw [hflag ho, leftShiftFlag_toNat]

end Sys2Proof.Machine

namespace Sys2Proof.Machine

open Sys2Proof Sys2Proof.Config

/-! ## O35, O36 and O37: the register range -/

/-- An access from I to `n` past it that leaves memory takes the bounds fault, with nothing written (43_index_memory.md R206,
D13). -/
theorem guardRange_of_effAddr_ge {n : Nat} {s : State} (go : Host.Outcome State Fault Refusal) (h : 4096 ≤ effAddr s n) :
    guardRange (effAddr s 0) (n + 1) s go = .next (s.faultedWith (.memoryBounds (max s.i.toNat 4096))) :=
  guardRange_of_exceeds s go n.succ_pos (Nat.lt_succ_of_le h)

/-- LoadRegRange inside memory (43_index_memory.md R205): the step and the load of V[0] to V[x]. -/
theorem exec_loadRegRange_of_lt {x : Nibble} {s : State} (h : effAddr s x.toNat < 4096) :
    exec (.loadRegRange x) s = .next (s.advance.loadRegs (effAddr s 0) (x.toNat + 1)) :=
  guardRange_of_fits s _ (.inr h)

theorem byteAfter_saveRegRange {x k : Nibble} (s : State) (hk : k ≤ x) :
    byteAfter (.saveRegRange x) s (effAddr s k.toNat) = s.reg k := by
  have hin : effAddr s 0 ≤ effAddr s k.toNat ∧ effAddr s k.toNat ≤ effAddr s x.toNat :=
    ⟨Nat.le_add_right _ _, Nat.add_le_add_left hk _⟩
  have hoff : effAddr s k.toNat - effAddr s 0 = k.toNat := Nat.add_sub_cancel_left ..
  rw [byteAfter, if_pos hin, hoff, BitVec.ofNat_toNat, BitVec.setWidth_eq]

theorem reg_loadRegs_effAddr {x k : Nibble} (s : State) (hk : k ≤ x) :
    (s.advance.loadRegs (effAddr s 0) (x.toNat + 1)).reg k = s.byte (effAddr s k.toNat) := by
  rw [State.loadRegs_reg _ _ _ x.isLt, if_pos (Nat.lt_succ_of_le hk), State.advance_byte, ← effAddr_eq_add]

/-- A store of `n` bytes from I touches pc and those bytes only. -/
theorem frameExcept_advance_setMem (s : State) {n : Nat} {bytes : List Byte} (hlen : bytes.length = n) (hn : 0 < n) :
    FrameExcept (fun c => c = .pc ∨ ∃ k, k < n ∧ c = .byte (effAddr s k)) s
      (s.advance.setMem (s.mem.writeBytes (effAddr s 0) bytes)) :=
  ((Leaves.refl.advance (.inl rfl)).setMem_writeBytes (hlen ▸ hn) fun k hk => .inr ⟨k, hlen ▸ hk, rfl⟩).frame

/-- A load of V[0] to V[x] touches pc and those registers only. -/
theorem frameExcept_advance_loadRegs (s : State) (x : Nibble) (base : Nat) :
    FrameExcept (fun c => c = .pc ∨ ∃ r : Nibble, r ≤ x ∧ c = .reg r) s (s.advance.loadRegs base (x.toNat + 1)) := by
  refine ((Leaves.refl.advance (.inl rfl)).loadRegs fun k hk => .inr ⟨_, ?_, rfl⟩).frame
  rw [BitVec.le_def, BitVec.toNat_ofNat]
  exact (Nat.mod_le k _).trans (Nat.le_of_lt_succ hk)

/-- Settles O35, by whether the last address is inside memory. -/
theorem saveStoresTheRegisterRange : Obligations.SaveStoresTheRegisterRange := by
  intro x s
  refine ⟨fun hin => ⟨_, exec_saveRegRange_of_lt hin, fun k hk => ?stored, rfl, ?frame⟩, guardRange_of_effAddr_ge _⟩
  case stored => exact (read_writeBytes_firstRegs x s _).trans (byteAfter_saveRegRange s hk)
  case frame => simpa only [Nat.lt_succ_iff] using frameExcept_advance_setMem s (s.firstRegs_length _) x.toNat.succ_pos

/-- Settles O36, by whether the last address is inside memory. -/
theorem loadFillsTheRegisterRange : Obligations.LoadFillsTheRegisterRange := fun x s =>
  ⟨fun hin => ⟨_, exec_loadRegRange_of_lt hin, fun _ hk => reg_loadRegs_effAddr s hk, State.loadRegs_pc _ _ _,
      frameExcept_advance_loadRegs s x _⟩,
    guardRange_of_effAddr_ge _⟩

/-- Settles O37: the save leaves I alone, so the load reads the addresses that were stored to. -/
theorem loadRestoresWhatSaveStored : Obligations.LoadRestoresWhatSaveStored := by
  intro x s v hin
  obtain ⟨t, hsave, hstored, -, hframe⟩ := (saveStoresTheRegisterRange x s).1 hin
  have hi : t.i = s.i := hframe .index (by simp)
  have haddr (k : Nat) : effAddr { t with v := v } k = effAddr s k := congrArg (·.toNat + k) hi
  obtain ⟨u, hload, hloaded, -⟩ := (loadFillsTheRegisterRange x { t with v := v }).1 ((haddr _).trans_lt hin)
  refine ⟨t, u, hsave, hload, fun k hk => ?_⟩
  calc u.reg k
    _ = t.byte (effAddr { t with v := v } k.toNat) := hloaded k hk
    _ = t.byte (effAddr s k.toNat) := by rw [haddr]
    _ = s.reg k := hstored k hk

/-! ## O32 and O33: the index register -/

theorem exec_setIndex (nnn : Imm12) (s : State) : exec (.setIndex nnn) s = .next (s.advance.setIndex (immAddr nnn)) := rfl

theorem exec_setIndexHex (x : Nibble) (s : State) :
    exec (.setIndexHex x) s = .next (s.advance.setIndex (BitVec.ofNat 16 ((s.reg x).toNat * 5))) := rfl

theorem exec_incrIndex (x : Nibble) (s : State) : exec (.incrIndex x) s =
    .next ((s.advance.setIndex (s.i + (s.reg x).setWidth 16)).setReg vf (indexWrapFlag s.i (s.reg x))) := rfl

theorem frameExcept_advance_setIndex (s : State) (w : Word) :
    FrameExcept (fun c => c = .pc ∨ c = .index) s (s.advance.setIndex w) :=
  ((Leaves.refl.advance (.inl rfl)).setIndex (.inr rfl)).frame

theorem indexWrapFlag_eq (i : Word) (b : Byte) : indexWrapFlag i b = if 65536 ≤ i.toNat + b.toNat then 1 else 0 := by
  simp only [indexWrapFlag, flagByte, decide_eq_true_eq]

/-- The wrapped sum of a word and a zero-extended byte. -/
theorem word_add_byte_toNat (i : Word) (b : Byte) : (i + b.setWidth 16).toNat = (i.toNat + b.toNat) % 65536 := by
  rw [BitVec.toNat_add, BitVec.toNat_setWidth, Nat.add_mod_mod]

/-- Settles O32: five times a byte fits in 16 bits. -/
theorem indexIsSetWhole : Obligations.IndexIsSetWhole := by
  intro nnn x s
  have hfive : (BitVec.ofNat 16 ((s.reg x).toNat * 5)).toNat = (s.reg x).toNat * 5 := by
    have := (s.reg x).isLt
    rw [BitVec.toNat_ofNat, Nat.mod_eq_of_lt (by omega)]
  exact ⟨⟨_, exec_setIndex nnn s, immAddr_toNat nnn, rfl, frameExcept_advance_setIndex s _⟩,
    ⟨_, exec_setIndexHex x s, hfive, rfl, frameExcept_advance_setIndex s _⟩⟩

/-- Settles O33: the sum is taken before VF is written, so x = F is no special case. -/
theorem incrIndexFlagsOnlyTheWrap : Obligations.IncrIndexFlagsOnlyTheWrap := by
  intro x s
  refine ⟨_, exec_incrIndex x s, word_add_byte_toNat _ _, ?flag, rfl, ?frame⟩
  case flag => rw [State.reg_setReg_self, indexWrapFlag_eq]
  case frame => exact (((Leaves.refl.advance (.inl rfl)).setIndex (.inr (.inl rfl))).setReg (.inr (.inr rfl))).frame

/-! ## O34: the three digits -/

/-- A number that is at most a byte's number is the number of its own byte. -/
theorem byte_ofNat_toNat_of_le {n : Nat} (b : Byte) (h : n ≤ b.toNat) : (BitVec.ofNat 8 n).toNat = n :=
  (BitVec.toNat_ofNat _ _).trans (Nat.mod_eq_of_lt (h.trans_lt b.isLt))

/-- Settles O34, by whether the third address is inside memory. -/
theorem bcdStoresThreeDigits : Obligations.BcdStoresThreeDigits := by
  intro x s
  refine ⟨fun hin => ⟨_, exec_bcdReg_of_lt hin, ?hundreds, ?tens, ?ones, rfl,
    frameExcept_advance_setMem s (bcdDigits_length _) (by decide)⟩, guardRange_of_effAddr_ge _⟩
  all_goals rw [State.setMem_byte, read_writeBytes_bcdDigits]
  case hundreds =>
    rw [byteAfter, if_pos rfl]
    exact byte_ofNat_toNat_of_le (s.reg x) (by omega)
  case tens =>
    rw [byteAfter, if_neg (by simp [effAddr]), if_pos rfl]
    exact byte_ofNat_toNat_of_le (s.reg x) (by omega)
  case ones =>
    rw [byteAfter, if_neg (by simp [effAddr]), if_neg (by simp [effAddr]), if_pos rfl]
    exact byte_ofNat_toNat_of_le (s.reg x) (by omega)

end Sys2Proof.Machine

namespace Sys2Proof.Machine

open Sys2Proof Sys2Proof.Config

/-! ## O40: Draw -/

/-- What the blit of a Draw answers: the grid, and whether a pixel was turned off (44_display.md R222, R225). -/
def drawBlit (x y n : Nibble) (s : State) : Framebuffer × Bool :=
  blitRows (originX s x) (originY s y) (spriteRows s n.toNat) (s.fb, false)

theorem exec_draw (x y n : Nibble) (s : State) : exec (.draw x y n) s =
    guardRange (effAddr s 0) n.toNat s
      (.next ((s.advance.setFb (drawBlit x y n s).1).writeCollision (drawBlit x y n s).2)) := rfl

/-- Draw with no row, or with its last row inside memory (44_display.md R222, R224). -/
theorem exec_draw_of_fits {x y n : Nibble} {s : State} (h : n = 0 ∨ effAddr s (n.toNat - 1) < 4096) :
    exec (.draw x y n) s =
      .next ((s.advance.setFb (drawBlit x y n s).1).writeCollision (drawBlit x y n s).2) := by
  have hfit : n.toNat = 0 ∨ effAddr s 0 + n.toNat ≤ 4096 := by
    rcases h with rfl | hlast
    · exact .inl rfl
    · rw [effAddr_eq_add] at hlast
      omega
  rw [exec_draw, guardRange_of_fits s _ hfit]

/-- Draw with a row outside memory: the fault, with nothing drawn (44_display.md R224). -/
theorem exec_draw_of_exceeds {x y n : Nibble} {s : State} (hn : n ≠ 0) (h : 4096 ≤ effAddr s (n.toNat - 1)) :
    exec (.draw x y n) s = .next (s.faultedWith (.memoryBounds (max s.i.toNat 4096))) := by
  have hpos : 0 < n.toNat := Nat.pos_of_ne_zero fun h0 => hn (BitVec.eq_of_toNat_eq h0)
  have hsucc : n.toNat - 1 + 1 = n.toNat := Nat.sub_add_cancel hpos
  rw [exec_draw, ← guardRange_of_effAddr_ge _ h, hsucc]

@[simp] theorem spriteRows_length (s : State) (n : Nat) : (spriteRows s n).length = n := by
  rw [spriteRows, List.length_map, List.length_range]

theorem spriteRows_getElem? (s : State) {n r : Nat} (h : r < n) : (spriteRows s n)[r]? = some (s.byte (effAddr s r)) := by
  rw [spriteRows, List.getElem?_map, List.getElem?_range h, Option.map_some]

/-- The rows a Draw blits put on each pixel the bit the claims speak of. -/
theorem rowsBit_spriteRows (s : State) (x y n : Nibble) (px py : Nat) :
    rowsBit (originX s x) (originY s y) (spriteRows s n.toNat) px py = spritePixel s x y n px py := by
  rw [rowsBit, spritePixel, spriteRows_length]
  by_cases hin : originX s x ≤ px ∧ px < originX s x + 8 ∧ originY s y ≤ py ∧ py < originY s y + n.toNat
  · rw [spriteRows_getElem? s (by omega), Option.getD_some]
  · rw [decide_eq_false hin, Bool.false_and, Bool.false_and]

theorem drawBlit_pixel (x y n : Nibble) (s : State) {px py : Nat} (hpx : px < screenW) (hpy : py < screenH) :
    (drawBlit x y n s).1.pixel px py = (s.pixel px py ^^ spritePixel s x y n px py) := by
  rw [drawBlit, blitRows_pixel _ _ _ _ hpx hpy, rowsBit_spriteRows, State.pixel]

theorem drawBlit_erased (x y n : Nibble) (s : State) : (drawBlit x y n s).2 = true ↔ drawErases s x y n := by
  simp only [drawBlit, blitRows_erased, rowsBit_spriteRows, Bool.false_eq_true, false_or, drawErases, State.pixel]

/-- Settles O40, by whether the last row is inside memory. -/
theorem drawXorsTheClippedSprite : Obligations.DrawXorsTheClippedSprite := by
  intro x y n s
  refine ⟨fun hfit => ⟨_, exec_draw_of_fits hfit, fun px py hpx hpy => ?pixels, ?flag, ?pc, ?frame⟩,
    exec_draw_of_exceeds⟩
  case pixels => rw [State.writeCollision_pixel, State.setFb_pixel, drawBlit_pixel x y n s hpx hpy]
  case flag =>
    rw [State.writeCollision_reg]
    by_cases hcol : pDrawCollision = true
    · rw [if_pos ⟨rfl, hcol⟩]
      by_cases he : drawErases s x y n
      · exact .inl ⟨hcol, if_pos ((drawBlit_erased x y n s).2 he), he⟩
      · exact .inr (.inl ⟨hcol, if_neg fun h => he ((drawBlit_erased x y n s).1 h), he⟩)
    · exact .inr (.inr ⟨eq_false_of_ne_true hcol, if_neg fun h => hcol h.2⟩)
  case pc => rw [State.writeCollision_pc, State.setFb_pc, State.advance_pc]
  case frame =>
    exact (((Leaves.refl.advance (.inl rfl)).setFb fun px py => .inr (.inr ⟨px, py, rfl⟩)).writeCollision
      (.inr (.inl rfl))).frame

/-! ## O41: the same Draw twice -/

theorem effAddr_congr {s s' : State} (hi : s'.i = s.i) (k : Nat) : effAddr s' k = effAddr s k := by
  rw [effAddr, effAddr, hi]

/-- The sprite is a function of the origin registers, I and the bytes of its rows (44_display.md R226). -/
theorem spritePixel_congr {x y n : Nibble} {s s' : State} (hx : s'.reg x = s.reg x) (hy : s'.reg y = s.reg y)
    (hi : s'.i = s.i) (hbytes : ∀ r, r < n.toNat → s'.byte (effAddr s r) = s.byte (effAddr s r)) (px py : Nat) :
    spritePixel s' x y n px py = spritePixel s x y n px py := by
  have hX : originX s' x = originX s x := by rw [originX, originX, hx]
  have hY : originY s' y = originY s y := by rw [originY, originY, hy]
  rw [spritePixel, spritePixel, hX, hY, effAddr_congr hi]
  by_cases hin : originX s x ≤ px ∧ px < originX s x + 8 ∧ originY s y ≤ py ∧ py < originY s y + n.toNat
  · rw [hbytes _ (by omega)]
  · rw [decide_eq_false hin, Bool.false_and, Bool.false_and]

theorem State.pixel_outside (s : State) {px py : Nat} (h : ¬ (px < screenW ∧ py < screenH)) : s.pixel px py = false :=
  s.fb.pixel_outside h

/-- Settles O41: the two sprites cancel, and the pixels the second Draw turns off are those the first turned on. -/
theorem drawingTwiceRestoresThePixels : Obligations.DrawingTwiceRestoresThePixels := by
  intro x y n s hfit
  obtain ⟨t, ht, htpix, -⟩ := (drawXorsTheClippedSprite x y n s).1 hfit
  refine ⟨t, ht, fun s' hfb hx hy hi hbytes => ?_⟩
  obtain ⟨u, hu, hupix, hflag, -⟩ := (drawXorsTheClippedSprite x y n s').1 (by rwa [effAddr_congr hi])
  have hpix (px py : Nat) : s'.pixel px py = t.pixel px py := congrArg (·.pixel px py) hfb
  have hsprite := spritePixel_congr hx hy hi hbytes
  refine ⟨u, hu, fun px py => ?pixels, fun hcol => ?flag⟩
  case pixels =>
    by_cases hin : px < screenW ∧ py < screenH
    · rw [hupix px py hin.1 hin.2, hpix, htpix px py hin.1 hin.2, hsprite, Bool.xor_assoc, Bool.xor_self, Bool.xor_false]
    · rw [State.pixel_outside u hin, State.pixel_outside s hin]
  case flag =>
    have hone : u.reg vf = 1 ↔ drawErases s' x y n := by
      rcases hflag with ⟨-, h1, he⟩ | ⟨-, h0, he⟩ | ⟨hoff, -⟩
      · exact iff_of_true h1 he
      · exact iff_of_false (by rw [h0]; decide) he
      · exact absurd (hcol.symm.trans hoff) (by decide)
    rw [hone]
    refine exists₂_congr fun px py => and_congr_right fun hpx => and_congr_right fun hpy => ?_
    rw [hpix, hsprite, htpix px py hpx hpy]
    cases s.pixel px py <;> simp

/-! ## O39: Clear -/

theorem exec_clear (s : State) : exec .clear s = .next (s.advance.setFb Framebuffer.blank) := rfl

/-- Settles O39: only pc and the framebuffer are written. -/
theorem clearTurnsEveryPixelOff : Obligations.ClearTurnsEveryPixelOff := fun s =>
  ⟨_, exec_clear s, Framebuffer.pixel_blank, rfl,
    ((Leaves.refl.advance (.inl rfl)).setFb fun px py => .inr ⟨px, py, rfl⟩).frame⟩

end Sys2Proof.Machine

namespace Sys2Proof.Machine

open Sys2Proof Sys2Proof.Config

/-! ## O43: WaitForKey -/

/-- The key a key instruction names is the low nibble of its register (45_keys_timers.md R240). -/
theorem keyIndex_eq {x k : Nibble} {s : State} (h : k.toNat = (s.reg x).toNat % 16) : keyIndex s x = k := by
  apply BitVec.eq_of_toNat_eq
  rw [h, keyIndex, BitVec.extractLsb'_toNat, Nat.shiftRight_zero]

theorem exec_waitForKey (x : Nibble) (s : State) :
    exec (.waitForKey x) s = .next (s.setPc (if s.keyDown (keyIndex s x) then s.pc + 2 else s.pc)) :=
  congrArg _ (execWaitForKey_next rfl)

theorem exec_waitForKey_of_up {x k : Nibble} {s : State} (hk : k.toNat = (s.reg x).toNat % 16)
    (hup : s.keyDown k = false) : exec (.waitForKey x) s = .next s := by
  rw [exec_waitForKey, keyIndex_eq hk, hup]
  rfl

theorem exec_waitForKey_of_down {x k : Nibble} {s : State} (hk : k.toNat = (s.reg x).toNat % 16)
    (hdown : s.keyDown k = true) : exec (.waitForKey x) s = .next s.advance := by
  rw [exec_waitForKey, keyIndex_eq hk, hdown]
  rfl

/-- Settles O43, by whether the key is down. -/
theorem waitForKeySpinsUntilItsKey : Obligations.WaitForKeySpinsUntilItsKey := fun _ _ _ hk =>
  ⟨exec_waitForKey_of_up hk, exec_waitForKey_of_down hk⟩

/-! ## O45: the host presses a key -/

theorem setKey_toNat (k : Nibble) (p : Bool) (s : State) : setKey k.toNat p s = .next (s.setKeyDown k p) := by
  rw [setKey, if_pos k.isLt, BitVec.ofNat_toNat, BitVec.setWidth_eq]

@[simp] theorem State.setKeyDown_fetch (s : State) (k : Nibble) (p : Bool) : (s.setKeyDown k p).fetch = s.fetch := rfl

/-- Settles O45: a key press leaves the fetch and V[x] alone, so the next step is the same WaitForKey, on the new keypad. -/
theorem setKeyEndsTheSpin : Obligations.SetKeyEndsTheSpin := by
  intro s w x k j hrun hfetch hdec hk hup hne
  have hpressed (i : Nibble) : step (s.setKeyDown i true) = exec (.waitForKey x) (s.setKeyDown i true) :=
    step_of_decode hrun ((s.setKeyDown_fetch i true).trans hfetch) hdec
  have hown : (s.setKeyDown k true).keyDown k = true := by rw [State.keyDown_setKeyDown, if_pos rfl]
  have hother : (s.setKeyDown j true).keyDown k = false := by rw [State.keyDown_setKeyDown, if_neg hne, hup]
  refine ⟨?spin, ⟨_, setKey_toNat k true s, ?own⟩, ⟨_, setKey_toNat j true s, ?other⟩⟩
  case spin => rw [step_of_decode hrun hfetch hdec, exec_waitForKey_of_up hk hup]
  case own => exact (hpressed k).trans (exec_waitForKey_of_down hk hown)
  case other => exact (hpressed j).trans (exec_waitForKey_of_up hk hother)

/-! ## O42: the key skips -/

theorem exec_keyPressed (x : Nibble) (s : State) : exec (.keyPressed x) s =
    .next (s.setPc (if s.keyDown (keyIndex s x) then s.pc + 4 else s.pc + 2)) := skipIf_eq _ s

theorem exec_keyNotPressed (x : Nibble) (s : State) : exec (.keyNotPressed x) s =
    .next (s.setPc (if s.keyDown (keyIndex s x) then s.pc + 2 else s.pc + 4)) := by
  rw [exec, execKeyNotPressed, skipIf_eq]
  simp only [Bool.not_eq_true', ← Bool.not_eq_true, ite_not]

/-- Settles O42: both skips look at the same key. -/
theorem keySkips : Obligations.KeySkips := by
  intro x k s hk
  rw [exec_keyPressed, exec_keyNotPressed, keyIndex_eq hk]
  exact ⟨⟨_, rfl, rfl, frameExcept_setPc s _⟩, ⟨_, rfl, rfl, frameExcept_setPc s _⟩⟩

/-! ## O44: the timer transfers -/

theorem exec_checkDelay (x : Nibble) (s : State) : exec (.checkDelay x) s = .next (s.advance.setReg x s.dt) := rfl

theorem exec_setDelay (x : Nibble) (s : State) : exec (.setDelay x) s = .next (s.advance.setDelay (s.reg x)) := rfl

theorem exec_setBuzzer (x : Nibble) (s : State) : exec (.setBuzzer x) s = .next (s.advance.setSound (s.reg x)) := rfl

/-- Settles O44: each transfer is the advance of pc and one write. -/
theorem timerTransfers : Obligations.TimerTransfers := fun x s =>
  ⟨⟨_, exec_checkDelay x s, State.reg_setReg_self _ _ _, rfl, frameExcept_advance_setReg s x _⟩,
    ⟨_, exec_setDelay x s, rfl, rfl, ((Leaves.refl.advance (.inl rfl)).setDelay (.inr rfl)).frame⟩,
    ⟨_, exec_setBuzzer x s, rfl, rfl, ((Leaves.refl.advance (.inl rfl)).setSound (.inr rfl)).frame⟩⟩

end Sys2Proof.Machine

namespace Sys2Proof.Machine

open Sys2Proof Sys2Proof.Config

/-! ## O14: the host actions and the invariant -/

theorem State.Inv.setMem {s : State} (hs : s.Inv) {m : Memory} (hm : Memory.wf m) : (s.setMem m).Inv :=
  ⟨hm, hs.stackDepth, hs.stackEntries, hs.pcBound⟩

theorem State.Inv.tickTimers {s : State} (hs : s.Inv) : (tickTimers s).Inv :=
  ⟨hs.memWf, hs.stackDepth, hs.stackEntries, hs.pcBound⟩

theorem State.Inv.setKeyDown {s : State} (hs : s.Inv) (k : Nibble) (p : Bool) : (s.setKeyDown k p).Inv :=
  ⟨hs.memWf, hs.stackDepth, hs.stackEntries, hs.pcBound⟩

/-- A program of at most MAX_PROGRAM bytes ends inside memory (70_reset_and_hazards.md R293). -/
theorem Memory.wf_load {m : Memory} {image : List Byte} (hm : Memory.wf m) (hfit : image.length ≤ maxProgram) :
    Memory.wf (m.writeBytes loadOffset image) :=
  Memory.wf_writeBytes image hm (Nat.add_le_add_left hfit loadOffset)

/-- Settles O14, action by action: besides a step, only `load_program` writes memory, and none writes the stack or pc. -/
theorem hostActionsKeepTheInvariant : Obligations.HostActionsKeepTheInvariant := by
  intro σ σ' a r hinv h
  rcases Session.act_cases h with hc | ⟨-, hc⟩ | ⟨-, hc⟩ | ⟨i, p, -, hc⟩ | ⟨image, -, hfit, hc⟩
  · rwa [hc]
  · exact stepKeepsTheInvariant _ _ hinv hc
  · rw [hc]
    exact hinv.tickTimers
  · rw [setKey_next hc]
    exact hinv.setKeyDown _ p
  · rw [hc]
    exact hinv.setMem (Memory.wf_load hinv.memWf hfit)

/-! ## O49: the host's step -/

/-- In Running a step is never refused: it takes a fault or runs an instruction, and each of these answers. -/
theorem step_answers {s : State} (hrun : s.status = .running) : ∃ t, step s = .next t := by
  rcases step_cases s with ⟨f, hf, -⟩ | ⟨-, f, -, hs⟩ | ⟨-, w, e, -, -, hs⟩ | ⟨-, w, i, -, -, hs⟩
  · simp [hrun] at hf
  · exact ⟨_, hs⟩
  · exact ⟨_, hs⟩
  · obtain ⟨t, ht, -⟩ := exec_answers i s
    exact ⟨t, hs.trans ht⟩

theorem Session.act_step_of_running {σ : Session} {t : State} (h : Machine.step σ.core = .next t)
    (ht : t.status = .running) : σ.act .step = .next ({ core := t, phase := .stepped }, .stepResult none) := by
  simp only [Session.act, Session.step, h, stepResult, ht]

theorem Session.act_step_of_faulted {σ : Session} {t : State} {f : Fault} (h : Machine.step σ.core = .next t)
    (ht : t.status = .faulted f) : σ.act .step = .next ({ core := t, phase := .stepped }, .stepResult (some f)) := by
  simp only [Session.act, Session.step, h, stepResult, ht]

/-- Settles O49, by the status the step ends in. -/
theorem hostStepReportsTheFault : Obligations.HostStepReportsTheFault := by
  intro σ hrun
  obtain ⟨t, h⟩ := step_answers hrun
  cases ht : t.status with
  | running => exact ⟨t, none, h, Session.act_step_of_running h ht, by simp [ht], by simp [ht]⟩
  | faulted f => exact ⟨t, some f, h, Session.act_step_of_faulted h ht, by simp [ht], by simp [ht]⟩

/-! ## O46 and O50: the timers -/

/-- `b - 1` on naturals stops at 0 as the timer does (60_exceptions.md R271). -/
theorem countDown_toNat (b : Byte) : (countDown b).toNat = b.toNat - 1 := by
  unfold countDown
  split
  · next h => rw [h]; rfl
  · bv_omega

/-- Settles O46: a tick is one count down of each timer. -/
theorem tickTimersCountsDown : Obligations.TickTimersCountsDown := fun s =>
  ⟨countDown_toNat s.dt, countDown_toNat s.st, ((Leaves.refl.setDelay (.inl rfl)).setSound (.inr rfl)).frame⟩

/-- Settles O50, by induction on the number of ticks. -/
theorem timersStopAtZero : Obligations.TimersStopAtZero := by
  intro m s
  induction m with
  | zero => exact ⟨rfl, rfl⟩
  | succ m ih =>
    obtain ⟨hdt, hst⟩ := ih
    obtain ⟨hdt', hst', -⟩ := tickTimersCountsDown (tickTimers^[m] s)
    rw [Function.iterate_succ_apply', hdt', hst', hdt, hst]
    exact ⟨Nat.sub_sub _ m 1, Nat.sub_sub _ m 1⟩

/-! ## O47: set_key -/

theorem Leaves.setKeyDown {P : Component → Prop} {s t : State} (h : Leaves P s t) {k : Nibble} {p : Bool}
    (hp : P (.key k)) : Leaves P s (t.setKeyDown k p) := by
  refine h.andThen (fun c hc => ?_) rfl
  cases c with
  | key j =>
    have hne : k ≠ j := by rintro rfl; exact hc hp
    exact (State.keyDown_setKeyDown t k j p).trans (if_neg hne)
  | _ => rfl

/-- An index that names no key is refused (60_exceptions.md R272). -/
theorem setKey_of_ge {index : Nat} (h : 16 ≤ index) (p : Bool) (s : State) :
    setKey index p s = .refused (.keyIndexOutOfRange index) :=
  if_neg (Nat.not_lt.2 h)

/-- Settles O47, by whether the index names a key. -/
theorem setKeyWritesOneKey : Obligations.SetKeyWritesOneKey := by
  intro index p s
  refine ⟨fun k hk => ?_, fun h => setKey_of_ge h p s⟩
  subst hk
  exact ⟨_, setKey_toNat k p s, (State.keyDown_setKeyDown s k k p).trans (if_pos rfl),
    (Leaves.setKeyDown (P := (· = .key k)) .refl rfl).frame⟩

end Sys2Proof.Machine

namespace Sys2Proof.Machine

open Sys2Proof Sys2Proof.Config

/-! ## O48: load_program -/

theorem State.byte_setMem_writeBytes (s : State) (a : Nat) {bytes : List Byte} {k : Nat} {b : Byte}
    (hb : bytes[k]? = some b) : (s.setMem (s.mem.writeBytes a bytes)).byte (a + k) = b := by
  obtain ⟨hk, -⟩ := List.getElem?_eq_some_iff.1 hb
  have hin : a ≤ a + k ∧ a + k < a + bytes.length := ⟨Nat.le_add_right a k, Nat.add_lt_add_left hk a⟩
  refine (Memory.read_writeBytes bytes s.mem a (a + k)).trans ?_
  rw [if_pos hin, Nat.add_sub_cancel_left, hb, Option.getD_some]

/-- A store of any list of bytes, the empty one included, touches those bytes only. -/
theorem frameExcept_setMem_writeBytes (s : State) (a : Nat) (bytes : List Byte) :
    FrameExcept (fun c => ∃ k, k < bytes.length ∧ c = .byte (a + k)) s (s.setMem (s.mem.writeBytes a bytes)) := by
  cases bytes with
  | nil => exact Leaves.refl.frame
  | cons b rest => exact Leaves.frame (.setMem_writeBytes .refl (Nat.succ_pos _) fun k hk => ⟨k, hk, rfl⟩)

theorem Session.act_loadProgram_of_fits {σ : Session} {image : List Byte} (hbuilt : σ.phase = .built)
    (hfit : image.length ≤ maxProgram) : σ.act (.loadProgram image) =
      .next ({ core := σ.core.setMem (σ.core.mem.writeBytes loadOffset image), phase := .loaded }, .loadResult none) := by
  simp only [Session.act, Session.load, hbuilt, loadProgram, if_neg (Nat.not_lt.2 hfit)]

theorem Session.act_loadProgram_of_tooLarge {σ : Session} {image : List Byte} (hbuilt : σ.phase = .built)
    (hlarge : maxProgram < image.length) :
    σ.act (.loadProgram image) = .next (σ, .loadResult (some .tooLarge)) := by
  simp only [Session.act, Session.load, hbuilt, loadProgram, if_pos hlarge]

/-- A program is loaded once, before the first step (92_eei_decisions.md D20). -/
theorem Session.act_loadProgram_of_not_built {σ : Session} (hphase : σ.phase ≠ .built) (image : List Byte) :
    σ.act (.loadProgram image) = .refused .loadOutOfOrder := by
  cases h : σ.phase with
  | built => exact absurd h hphase
  | loaded | stepped => simp only [Session.act, Session.load, h]

/-- Settles O48, by the phase and by whether the image fits. -/
theorem loadProgramCopiesTheImage : Obligations.LoadProgramCopiesTheImage := fun image σ =>
  ⟨fun hbuilt hfit => ⟨_, Session.act_loadProgram_of_fits hbuilt hfit, rfl,
      fun _ _ hb => State.byte_setMem_writeBytes σ.core loadOffset hb,
      frameExcept_setMem_writeBytes σ.core loadOffset image⟩,
    fun hbuilt hlarge => Session.act_loadProgram_of_tooLarge hbuilt hlarge,
    fun hphase => Session.act_loadProgram_of_not_built hphase image⟩

end Sys2Proof.Machine

namespace Sys2Proof.Machine

open Sys2Proof

/-! ## O27: the carry of IncrBy -/

/-- Two bytes wrap exactly when their sum needs a ninth bit (42_alu.md R168, the remark): the wrapped sum of `a` and `b` is
`a + b`, which is at least `b`, or `a + b - 256`, which is below `b` because `a` is below 256. -/
theorem wrapped_sum_lt_iff (a b : Byte) : (a.toNat + b.toNat) % 256 < b.toNat ↔ 256 ≤ a.toNat + b.toNat := by
  have ha := a.isLt
  have hb := b.isLt
  omega

/-- A sum of two bytes is its carry and its wrapped value. -/
theorem carry_mul_add_wrapped_sum (a b : Byte) :
    256 * (if 256 ≤ a.toNat + b.toNat then 1 else 0 : Byte).toNat + (a.toNat + b.toNat) % 256 = a.toNat + b.toNat := by
  have ha := a.isLt
  have hb := b.isLt
  split <;> simp only [BitVec.toNat_ofNat, BitVec.ofNat_eq_ofNat] <;> omega

/-- Settles O27: the state that O26 describes is the only next state, and its wraparound comparison is the carry. -/
theorem incrByKeepsTheWholeSum : Obligations.IncrByKeepsTheWholeSum := by
  intro x y s t ht
  obtain ⟨t', ht', hsum, hflag, -, -⟩ := incrByAddsWithCarry x y s
  obtain rfl : t' = t := Host.Outcome.next.inj (ht'.symm.trans ht)
  simp only [wrapped_sum_lt_iff] at hflag
  refine ⟨?carry, fun hx => ?whole⟩
  case carry => rw [hflag]; simp
  case whole => rw [hflag, hsum hx, carry_mul_add_wrapped_sum]

/-! ## O4: sample words -/

/-- Settles O4: the words and the results are literals, so that the decoder decides each of the 23. -/
theorem sampleWordsDecode : Obligations.SampleWordsDecode := by
  unfold Obligations.SampleWordsDecode
  decide

end Sys2Proof.Machine
